-- ==== Sys2Proof/Word.lean ====
section
/-! DEFINITION. The word types of MFM-CORE (00_scope.md R8). -/

namespace Sys2Proof

/-- A 32-bit register or command word (10_state.md section 1, 30_encoding.md R80). -/
abbrev Word := BitVec 32

/-- One byte: an I or Q operand of PAIR (30_encoding.md R86) or a byte lane (20_memory.md R65). -/
abbrev Byte := BitVec 8

/-- A binary32 bit pattern: sign bit 31, biased exponent bits 30..23, fraction bits 22..0 (40_numerics.md R100). -/
abbrev F32 := BitVec 32

/-- A signed 16-bit PCM sample, two's complement (20_memory.md R70). -/
abbrev Sample := BitVec 16

/-- A byte offset in the 4 KiB register window (20_memory.md R60). -/
abbrev Offset := BitVec 12

end Sys2Proof
end

