-- ==== Sys2Proof/Config.lean ====
section
/-! DEFINITION. The implementation parameters of 00_scope.md R7, and the values the spec leaves open, each an
opaque constant of which nothing can be proved but its type. -/

namespace Sys2Proof

/-- Where the byte map is applied (43_discriminator.md R151). -/
inductive NormPoint where
  | after
  | before
  deriving DecidableEq, Repr, Inhabited

/-- The six legal coefficient-set selectors, ORDERS (10_state.md R22). -/
inductive Order where
  | o12
  | o16
  | o20
  | o24
  | o28
  | o32
  deriving DecidableEq, Repr, Inhabited

/-- The selector's value in CTRL.ORDER_SEL, a plain 6-bit unsigned number (10_state.md R22). -/
def Order.code : Order → BitVec 6
  | .o12 => 12#6
  | .o16 => 16#6
  | .o20 => 20#6
  | .o24 => 24#6
  | .o28 => 28#6
  | .o32 => 32#6

/-- The operations that can return a NaN of their own making (40_numerics.md R102, 43_discriminator.md R157). -/
inductive NanOp where
  | add
  | sub
  | mul
  | div
  | arg
  deriving DecidableEq, Repr, Inhabited

namespace Config

/-- NTAPS, the taps of a smoothing coefficient set (00_scope.md R7). -/
abbrev ntaps : Nat := 8

/-- BOX_MAX, the physical length of the box filter's delay line (00_scope.md R7). -/
abbrev boxMax : Nat := 256

/-- OUTBUF_DEPTH, the capacity of the output buffer in samples (00_scope.md R7). -/
abbrev outbufDepth : Nat := 8192

/-- NORM_POINT, AFTER for this hardware (43_discriminator.md R151; log 11). -/
def normPoint : NormPoint := .after

/-- ORDERS (00_scope.md R7). -/
def orders : List (BitVec 6) := [12#6, 16#6, 20#6, 24#6, 28#6, 32#6]

/-- The value 0x4D464D01 of the ID register (10_state.md R20). -/
def idWord : Word := 0x4D464D01#32

end Config

/-- One coefficient set: numerator taps `b` and denominator taps `a`, NTAPS of each by its type, so that the
length match of 41_recursive_filter.md R123 holds of every table (10_state.md R52). -/
structure CoefSet where
  b : Vector F32 Config.ntaps
  a : Vector F32 Config.ntaps
  deriving DecidableEq, Repr, Inhabited

/-- The invariant `a[0] ≠ 0` of a coefficient set: `a[0]` is neither zero pattern (10_state.md R52). -/
def CoefSet.valid (c : CoefSet) : Bool := c.a[0].extractLsb' 0 31 != 0#31

namespace Config

/-- FREE VALUE (log 8): DEFAULT_ORDER, some member of ORDERS (00_scope.md R7; 10_state.md R22). -/
opaque defaultOrder : Order

/-- FREE VALUE (log 7): the draw from which the coefficient ROM is made. -/
opaque coefDraw : BitVec 6 → CoefSet

/-- COEF, the coefficient ROM (10_state.md R52): the drawn table, with 1.0 in place of a zero `a[0]`, so that
every table the model can have is one a model must accept, and every such table is some draw's (log 7). -/
def coef (o : BitVec 6) : CoefSet :=
  if (coefDraw o).valid then coefDraw o
  else { coefDraw o with a := (coefDraw o).a.set 0 0x3F800000#32 }

/-- FREE VALUE (log 6): NAN_DRAW, the sign (bit 22) and the 22 payload bits of the quiet NaN that an operation
returns on these operands (40_numerics.md R105). -/
opaque nanDraw : NanOp → F32 → F32 → BitVec 23

/-- FREE VALUE (log 9): what ARG_EXACT proposes for a magnitude `|y|` and an `x` whose result 43_discriminator.md
R157 items 1, 3 and 4 do not fix; it is taken where it meets items 2 and 5. -/
opaque argDraw : F32 → F32 → F32

/-- FREE VALUE (log 10): the number of the 4 KiB page at which the register window stands. -/
opaque windowPage : Nat

/-- BASE, the bus address of register offset 0, 4 KiB aligned (20_memory.md R60; log 10). -/
def base : Nat := windowPage * 4096

end Config
end Sys2Proof
end

