-- ==== Sys2Proof/Bus.lean ====
section
/-! DEFINITION. What the Host puts on the bus: the two transaction forms of 30_encoding.md R80, undecoded. -/

namespace Sys2Proof

/-- The width of a host access. Only 32-bit accesses have a meaning (20_memory.md R62). -/
inductive AccessWidth where
  | w8
  | w16
  | w32
  | w64
  deriving DecidableEq, Repr, Inhabited

/-- A register access as it stands on the bus: its width, its enabled byte lanes, the 16-bit descriptor of
30_encoding.md R81 and the data word beside it (which only a write uses). -/
structure Access where
  width : AccessWidth
  lanes : BitVec 4
  desc  : BitVec 16
  data  : Word
  deriving DecidableEq, Repr, Inhabited

/-- A transaction in one of the two forms of 30_encoding.md R80: a register access (BUSACC), or a command word
(CMD), which is the data word of a 32-bit write at offset 0x018. -/
inductive Transaction where
  | busacc (a : Access)
  | cmd (w : Word)
  deriving DecidableEq, Repr, Inhabited

/-- The 32-bit, all-lanes access with descriptor `desc` and data word `data` (20_memory.md R62). -/
def fullAccess (desc : BitVec 16) (data : Word) : Access :=
  { width := .w32, lanes := 0xF#4, desc := desc, data := data }

end Sys2Proof
end

