-- ==== Sys2Proof/Syntax.lean ====
section
/-! DEFINITION. The instructions of MFM-CORE: its host transactions (47_host_interface.md), one constructor per
row of spec/opcode_table.json. -/

namespace Sys2Proof

/-- The host transactions. A `v` is the 32-bit data word beside a write's descriptor. -/
inductive Instr where
  /-- NOP, command word 0x00000000 (R210). -/
  | nop
  /-- RESET, command word 0x01000000 (R211). -/
  | reset
  /-- CONSTRUCT, command word 0x02000000 (R212). -/
  | construct
  /-- BLOCK_BEGIN, command word 0x10000000 (R213). -/
  | blockBegin
  /-- PAIR, command word `0x11000000 | Q << 8 | I` (R214). -/
  | pair (ib qb : Byte)
  /-- BLOCK_END, command word 0x12000000 (R215). -/
  | blockEnd
  /-- WR CTRL (R216). -/
  | wrCtrl (v : Word)
  /-- WR DECIM_N (R217). -/
  | wrDecimN (v : Word)
  /-- WR BOX_N (R218). -/
  | wrBoxN (v : Word)
  /-- WR DEEMPH_D (R219). -/
  | wrDeemphD (v : Word)
  /-- WR SCALE (R220). -/
  | wrScale (v : Word)
  /-- WR CMD, its data word decoded by the command map (R221). -/
  | wrCmd (v : Word)
  /-- WR ID, read-only (R222). -/
  | wrId (v : Word)
  /-- WR STATUS, read-only (R222). -/
  | wrStatus (v : Word)
  /-- WR ERR_CMD, read-only (R222). -/
  | wrErrCmd (v : Word)
  /-- WR OUT_COUNT, read-only (R222). -/
  | wrOutCount (v : Word)
  /-- WR PAIR_COUNT, read-only (R222). -/
  | wrPairCount (v : Word)
  /-- WR PCM_COUNT, read-only (R222). -/
  | wrPcmCount (v : Word)
  /-- WR BLOCK_COUNT, read-only (R222). -/
  | wrBlockCount (v : Word)
  /-- WR DECIM_CNT, read-only (R222). -/
  | wrDecimCnt (v : Word)
  /-- WR DBG_SMOOTH_I, read-only (R222). -/
  | wrDbgSmoothI (v : Word)
  /-- WR DBG_SMOOTH_Q, read-only (R222). -/
  | wrDbgSmoothQ (v : Word)
  /-- WR DBG_PHASE, read-only (R222). -/
  | wrDbgPhase (v : Word)
  /-- WR DBG_DECIM_OUT, read-only (R222). -/
  | wrDbgDecimOut (v : Word)
  /-- WR DBG_DEEMPH_OUT, read-only (R222). -/
  | wrDbgDeemphOut (v : Word)
  /-- WR CAPS, read-only (R222). -/
  | wrCaps (v : Word)
  /-- RD ID (R230). -/
  | rdId
  /-- RD CTRL (R231). -/
  | rdCtrl
  /-- RD DECIM_N (R232). -/
  | rdDecimN
  /-- RD BOX_N (R233). -/
  | rdBoxN
  /-- RD DEEMPH_D (R234). -/
  | rdDeemphD
  /-- RD SCALE (R235). -/
  | rdScale
  /-- RD CMD (R236). -/
  | rdCmd
  /-- RD STATUS (R237). -/
  | rdStatus
  /-- RD ERR_CMD (R238). -/
  | rdErrCmd
  /-- RD OUT_COUNT (R239). -/
  | rdOutCount
  /-- RD PAIR_COUNT (R240). -/
  | rdPairCount
  /-- RD PCM_COUNT (R241). -/
  | rdPcmCount
  /-- RD BLOCK_COUNT (R242). -/
  | rdBlockCount
  /-- RD DECIM_CNT (R243). -/
  | rdDecimCnt
  /-- RD DBG_SMOOTH_I (R244). -/
  | rdDbgSmoothI
  /-- RD DBG_SMOOTH_Q (R245). -/
  | rdDbgSmoothQ
  /-- RD DBG_PHASE (R246). -/
  | rdDbgPhase
  /-- RD DBG_DECIM_OUT (R247). -/
  | rdDbgDecimOut
  /-- RD DBG_DEEMPH_OUT (R248). -/
  | rdDbgDeemphOut
  /-- RD CAPS (R249). -/
  | rdCaps
  /-- An access that breaks 20_memory.md R62 or names an unmapped offset: a bus error (R63). -/
  | busError (write : Bool) (off : Offset) (width : AccessWidth) (lanes : BitVec 4)
  /-- An illegal command word (30_encoding.md R91). -/
  | illegalCmd (w : Word)
  deriving DecidableEq, Repr, Inhabited

end Sys2Proof
end

