-- ==== Sys2Proof/WellFormed.lean ====
section
/-! DEFINITION. Which terms of Instr are instructions: only the two rows without a fixed match word carry a check. -/

namespace Sys2Proof

/-- Every bit a command's layout reserves is 0 and its opcode is listed: the opcode map of 30_encoding.md R90, by
match and mask. -/
def cmdLegal (w : Word) : Bool :=
  w == 0x00000000#32 || w == 0x01000000#32 || w == 0x02000000#32 || w == 0x10000000#32 ||
    w &&& 0xFFFF0000#32 == 0x11000000#32 || w == 0x12000000#32

/-- The mapped offsets: the multiples of 4 below 0x050 (10_state.md section 1, 20_memory.md R60, R63). -/
def mapped (off : Offset) : Bool := off &&& 3#12 == 0#12 && off < 0x050#12

/-- The access breaks 20_memory.md R62 or names an unmapped offset (R63). -/
def isBusError (off : Offset) (width : AccessWidth) (lanes : BitVec 4) : Bool :=
  !mapped off || width != .w32 || lanes != 0xF#4

/-- A `busError` names an access that is one (20_memory.md R63), an `illegalCmd` a word that is one
(30_encoding.md R91); the operands of the other rows admit every value. -/
def Instr.wf : Instr → Bool
  | .busError _ off width lanes => isBusError off width lanes
  | .illegalCmd w => !cmdLegal w
  | .nop | .reset | .construct | .blockBegin | .pair _ _ | .blockEnd
  | .wrCtrl _ | .wrDecimN _ | .wrBoxN _ | .wrDeemphD _ | .wrScale _ | .wrCmd _
  | .wrId _ | .wrStatus _ | .wrErrCmd _ | .wrOutCount _ | .wrPairCount _ | .wrPcmCount _
  | .wrBlockCount _ | .wrDecimCnt _ | .wrDbgSmoothI _ | .wrDbgSmoothQ _ | .wrDbgPhase _
  | .wrDbgDecimOut _ | .wrDbgDeemphOut _ | .wrCaps _
  | .rdId | .rdCtrl | .rdDecimN | .rdBoxN | .rdDeemphD | .rdScale | .rdCmd | .rdStatus | .rdErrCmd
  | .rdOutCount | .rdPairCount | .rdPcmCount | .rdBlockCount | .rdDecimCnt | .rdDbgSmoothI
  | .rdDbgSmoothQ | .rdDbgPhase | .rdDbgDecimOut | .rdDbgDeemphOut | .rdCaps => true

end Sys2Proof
end

