-- ==== Sys2Proof/Decode.lean ====
section
/-! DEFINITION. Decoding of transactions and command words (30_encoding.md), total, and the encoder beside it. -/

namespace Sys2Proof

/-- Why the decoder gives no instruction. -/
inductive DecodeError where
  /-- Bits 14:12 of the descriptor are not 0, which no transaction's descriptor has (30_encoding.md R81; log 17). -/
  | reservedDescriptorBits
  deriving DecidableEq, Repr, Inhabited

/-- A command word, decoded (30_encoding.md R82, R90, R91). -/
inductive Command where
  | nop
  | reset
  | construct
  | blockBegin
  | pair (ib qb : Byte)
  | blockEnd
  | illegal (w : Word)
  deriving DecidableEq, Repr, Inhabited

/-- The instruction that a decoded command word is. -/
def Command.instr : Command → Instr
  | .nop => .nop
  | .reset => .reset
  | .construct => .construct
  | .blockBegin => .blockBegin
  | .pair ib qb => .pair ib qb
  | .blockEnd => .blockEnd
  | .illegal w => .illegalCmd w

/-- The commands whose whole PAYLOAD is reserved, by opcode (30_encoding.md R83 to R85, R87, R88, R90). -/
def plainCommands : List (BitVec 8 × Command) :=
  [(0x00#8, .nop), (0x01#8, .reset), (0x02#8, .construct), (0x10#8, .blockBegin), (0x12#8, .blockEnd)]

/-- The opcode field OP of a command word (30_encoding.md R82). -/
def cmdOp (w : Word) : BitVec 8 := w.extractLsb' 24 8

/-- The operand field PAYLOAD of a command word (30_encoding.md R82). -/
def cmdPayload (w : Word) : BitVec 24 := w.extractLsb' 0 24

/-- Decode a command word in the order of 30_encoding.md R82: the opcode, then the reserved payload bits. -/
def decodeCommand (w : Word) : Command :=
  if cmdOp w = 0x11#8 then
    if w.extractLsb' 16 8 = 0#8 then .pair (w.extractLsb' 0 8) (w.extractLsb' 8 8) else .illegal w
  else
    match plainCommands.lookup (cmdOp w) with
    | some c => if cmdPayload w = 0#24 then c else .illegal w
    | none => .illegal w

/-- The reads, by offset (30_encoding.md R90). -/
def readTable : List (Offset × Instr) :=
  [(0x000#12, .rdId), (0x004#12, .rdCtrl), (0x008#12, .rdDecimN), (0x00C#12, .rdBoxN),
   (0x010#12, .rdDeemphD), (0x014#12, .rdScale), (0x018#12, .rdCmd), (0x01C#12, .rdStatus)] ++
  [(0x020#12, .rdErrCmd), (0x024#12, .rdOutCount), (0x028#12, .rdPairCount), (0x02C#12, .rdPcmCount),
   (0x030#12, .rdBlockCount), (0x034#12, .rdDecimCnt), (0x038#12, .rdDbgSmoothI), (0x03C#12, .rdDbgSmoothQ)] ++
  [(0x040#12, .rdDbgPhase), (0x044#12, .rdDbgDecimOut), (0x048#12, .rdDbgDeemphOut), (0x04C#12, .rdCaps)]

/-- The writes of data word `v`, by offset (30_encoding.md R90). -/
def writeTable (v : Word) : List (Offset × Instr) :=
  [(0x000#12, .wrId v), (0x004#12, .wrCtrl v), (0x008#12, .wrDecimN v), (0x00C#12, .wrBoxN v),
   (0x010#12, .wrDeemphD v), (0x014#12, .wrScale v), (0x018#12, .wrCmd v), (0x01C#12, .wrStatus v)] ++
  [(0x020#12, .wrErrCmd v), (0x024#12, .wrOutCount v), (0x028#12, .wrPairCount v), (0x02C#12, .wrPcmCount v),
   (0x030#12, .wrBlockCount v), (0x034#12, .wrDecimCnt v), (0x038#12, .wrDbgSmoothI v),
   (0x03C#12, .wrDbgSmoothQ v)] ++
  [(0x040#12, .wrDbgPhase v), (0x044#12, .wrDbgDecimOut v), (0x048#12, .wrDbgDeemphOut v), (0x04C#12, .wrCaps v)]

/-- The W bit of a descriptor: 1 is a write (30_encoding.md R81). -/
def descWrite (d : BitVec 16) : Bool := d.getLsbD 15

/-- Bits 14:12 of a descriptor, 0 in every transaction (30_encoding.md R81). -/
def descReserved (d : BitVec 16) : BitVec 3 := d.extractLsb' 12 3

/-- The OFF field of a descriptor (30_encoding.md R81). -/
def descOff (d : BitVec 16) : Offset := d.extractLsb' 0 12

/-- The descriptor with this W and OFF (30_encoding.md R81). -/
def mkDesc (write : Bool) (off : Offset) : BitVec 16 :=
  (if write then 0x8000#16 else 0#16) ||| off.setWidth 16

/-- Decode a register access (30_encoding.md R81, R90; 20_memory.md R63). -/
def decodeAccess (a : Access) : Except DecodeError Instr :=
  if descReserved a.desc ≠ 0#3 then .error .reservedDescriptorBits
  else if isBusError (descOff a.desc) a.width a.lanes then
    .ok (.busError (descWrite a.desc) (descOff a.desc) a.width a.lanes)
  else
    .ok (((if descWrite a.desc then writeTable a.data else readTable).lookup (descOff a.desc)).getD
      (.busError (descWrite a.desc) (descOff a.desc) a.width a.lanes))

/-- The decoder (30_encoding.md R80). -/
def decode : Transaction → Except DecodeError Instr
  | .busacc a => decodeAccess a
  | .cmd w => .ok (decodeCommand w).instr

/-- The word of PAIR with these bytes (30_encoding.md R86). -/
def pairWord (ib qb : Byte) : Word := 0x11#8 ++ 0#8 ++ qb ++ ib

/-- The transaction of a read at `off`. -/
def readAt (off : Offset) : Transaction := .busacc (fullAccess (mkDesc false off) 0#32)

/-- The transaction of a write of `v` at `off`. -/
def writeAt (off : Offset) (v : Word) : Transaction := .busacc (fullAccess (mkDesc true off) v)

/-- The encoder, from the layouts of 30_encoding.md R83 to R88 and the descriptors of R90. -/
def encode : Instr → Transaction
  | .nop => .cmd 0x00000000#32
  | .reset => .cmd 0x01000000#32
  | .construct => .cmd 0x02000000#32
  | .blockBegin => .cmd 0x10000000#32
  | .pair ib qb => .cmd (pairWord ib qb)
  | .blockEnd => .cmd 0x12000000#32
  | .wrCtrl v => writeAt 0x004#12 v
  | .wrDecimN v => writeAt 0x008#12 v
  | .wrBoxN v => writeAt 0x00C#12 v
  | .wrDeemphD v => writeAt 0x010#12 v
  | .wrScale v => writeAt 0x014#12 v
  | .wrCmd v => writeAt 0x018#12 v
  | .wrId v => writeAt 0x000#12 v
  | .wrStatus v => writeAt 0x01C#12 v
  | .wrErrCmd v => writeAt 0x020#12 v
  | .wrOutCount v => writeAt 0x024#12 v
  | .wrPairCount v => writeAt 0x028#12 v
  | .wrPcmCount v => writeAt 0x02C#12 v
  | .wrBlockCount v => writeAt 0x030#12 v
  | .wrDecimCnt v => writeAt 0x034#12 v
  | .wrDbgSmoothI v => writeAt 0x038#12 v
  | .wrDbgSmoothQ v => writeAt 0x03C#12 v
  | .wrDbgPhase v => writeAt 0x040#12 v
  | .wrDbgDecimOut v => writeAt 0x044#12 v
  | .wrDbgDeemphOut v => writeAt 0x048#12 v
  | .wrCaps v => writeAt 0x04C#12 v
  | .rdId => readAt 0x000#12
  | .rdCtrl => readAt 0x004#12
  | .rdDecimN => readAt 0x008#12
  | .rdBoxN => readAt 0x00C#12
  | .rdDeemphD => readAt 0x010#12
  | .rdScale => readAt 0x014#12
  | .rdCmd => readAt 0x018#12
  | .rdStatus => readAt 0x01C#12
  | .rdErrCmd => readAt 0x020#12
  | .rdOutCount => readAt 0x024#12
  | .rdPairCount => readAt 0x028#12
  | .rdPcmCount => readAt 0x02C#12
  | .rdBlockCount => readAt 0x030#12
  | .rdDecimCnt => readAt 0x034#12
  | .rdDbgSmoothI => readAt 0x038#12
  | .rdDbgSmoothQ => readAt 0x03C#12
  | .rdDbgPhase => readAt 0x040#12
  | .rdDbgDecimOut => readAt 0x044#12
  | .rdDbgDeemphOut => readAt 0x048#12
  | .rdCaps => readAt 0x04C#12
  | .busError write off width lanes =>
      .busacc { width := width, lanes := lanes, desc := mkDesc write off, data := 0#32 }
  | .illegalCmd w => .cmd w

/-- The transaction whose bits are `w`, numbered as spec/opcode_table.json numbers them: a 16-bit row is a
descriptor (its data word, bits above 15, is 0 where the row has no more bits), a 32-bit row is a command word, and a
longer one is a descriptor with its data word in the bits above 15 (30_encoding.md R80, R81). -/
def tableTransaction (nbits w : Nat) : Transaction :=
  if 16 < nbits ∧ nbits ≤ 32 then .cmd (BitVec.ofNat 32 w)
  else .busacc (fullAccess (BitVec.ofNat 16 w) (BitVec.ofNat 32 (w / 2 ^ 16)))

/-- The instruction the decoder reads from the bits `w` of an opcode-table row. -/
def decodeTableWord (nbits w : Nat) : Option Instr :=
  match decode (tableTransaction nbits w) with
  | .ok i => some i
  | .error _ => none

end Sys2Proof
end

