-- ==== Sys2Proof/Machine/State.lean ====
section
/-! DEFINITION. The state of MFM-CORE and of the agents around it (10_state.md), and its value at reset. -/

namespace Sys2Proof.Machine

/-- The controller state STATE (10_state.md R29). -/
inductive Mode where
  | unconf
  | ready
  | inblock
  | flush
  | fault
  deriving DecidableEq, Repr, Inhabited

/-- The value of STATUS.STATE (10_state.md R29). -/
def Mode.code : Mode → BitVec 3
  | .unconf => 0#3
  | .ready => 1#3
  | .inblock => 2#3
  | .flush => 3#3
  | .fault => 7#3

/-- The fault code in STATUS.ERR (60_exceptions.md R270). -/
inductive ErrCode where
  | none
  | cfgOrder
  | cfgDecim
  | cfgBox
  | alloc
  | illegalCmd
  | protocol
  | outOverflow
  deriving DecidableEq, Repr, Inhabited

/-- The value of STATUS.ERR (60_exceptions.md R270). -/
def ErrCode.code : ErrCode → BitVec 4
  | .none => 0#4
  | .cfgOrder => 1#4
  | .cfgDecim => 2#4
  | .cfgBox => 3#4
  | .alloc => 4#4
  | .illegalCmd => 5#4
  | .protocol => 6#4
  | .outOverflow => 7#4

/-- CTRL.SMOOTH: which smoothers run (10_state.md R21). -/
inductive Smooth where
  | recursive
  | box
  deriving DecidableEq, Repr, Inhabited

/-- CTRL.ARGSEL: which argument function runs (10_state.md R21). -/
inductive ArgSel where
  | exact
  | fast
  deriving DecidableEq, Repr, Inhabited

/-- The stored fields of CTRL; its reserved bits read 0 and have no storage (10_state.md R21, 30_encoding.md R92). -/
structure Ctrl where
  smooth   : Smooth
  argsel   : ArgSel
  orderSel : BitVec 6
  deriving DecidableEq, Repr, Inhabited

/-- A RecursiveFilter's histories, most recent at index 0, and its latest output (10_state.md R46). -/
structure Iir (n : Nat) where
  x   : Vector F32 n
  y   : Vector F32 n
  out : F32
  deriving DecidableEq, Repr

/-- A BoxAverageFilter's running sum, delay line, circular index and latest output (10_state.md R47). -/
structure Box where
  sum   : F32
  delay : Vector F32 Config.boxMax
  idx   : Fin Config.boxMax
  out   : F32
  deriving DecidableEq, Repr

/-- The PhaseDiscriminator's previous complex sample and latest output (10_state.md R48). -/
structure Disc where
  prevRe : F32
  prevIm : F32
  out    : F32
  deriving DecidableEq, Repr

/-- The DecimatingAverager's sum, counter, ready flag and output (10_state.md R49). -/
structure Decim where
  sum   : F32
  cnt   : BitVec 16
  ready : Bool
  out   : F32
  deriving DecidableEq, Repr

/-- The DeEmphasisFilter: a RecursiveFilter of 2 taps and the two coefficients CONSTRUCT derives (10_state.md R50). -/
structure DeEmph where
  filt : Iir 2
  b0   : F32
  a1   : F32
  deriving DecidableEq, Repr

/-- The agents that take steps (00_scope.md R4), and the platform's reset input (70_reset_and_hazards.md R300). -/
inductive Agent where
  | host
  | sink
  | hwReset
  deriving DecidableEq, Repr, Inhabited

/-- Everything the spec gives the machine (10_state.md), and the agents' own part: `hostQueue`, `schedule`, `reads`
and `sinkLog` (00_scope.md R4, 70_reset_and_hazards.md R311; log 2, 5, 13). -/
structure State where
  /-- CTRL (R21). -/
  ctrl : Ctrl
  /-- DECIM_N bits 15..0 (R23). -/
  decimN : BitVec 16
  /-- BOX_N bits 15..0 (R24). -/
  boxN : BitVec 16
  /-- DEEMPH_D (R25). -/
  deemphD : F32
  /-- SCALE (R26). -/
  scale : F32
  /-- STATUS.STATE (R29). -/
  mode : Mode
  /-- STATUS.ERR (R28, R270). -/
  err : ErrCode
  /-- ERR_CMD (R30). -/
  errCmd : Word
  /-- PAIR_COUNT (R32). -/
  pairCount : Word
  /-- PCM_COUNT (R33). -/
  pcmCount : Word
  /-- BLOCK_COUNT (R34). -/
  blockCount : Word
  /-- The I smoother of RecursiveFilter kind (R46). -/
  si : Iir Config.ntaps
  /-- The Q smoother of RecursiveFilter kind (R46). -/
  sq : Iir Config.ntaps
  /-- The I smoother of BoxAverageFilter kind (R47). -/
  bi : Box
  /-- The Q smoother of BoxAverageFilter kind (R47). -/
  bq : Box
  /-- The PhaseDiscriminator (R48). -/
  disc : Disc
  /-- The DecimatingAverager (R49). -/
  dec : Decim
  /-- The DeEmphasisFilter (R50). -/
  de : DeEmph
  /-- The samples `buf[0..len-1]`; `len` is the list's length (R51; log 12). -/
  buf : List Sample
  /-- The host write the bus holds while STATE = FLUSH (20_memory.md R68). -/
  held : Option Instr
  /-- The blocks the Sink has accepted, oldest first (70_reset_and_hazards.md R311; log 13). -/
  sinkLog : List (List Sample)
  /-- The values the Host's reads returned, oldest first (70_reset_and_hazards.md R311; log 13). -/
  reads : List Word
  /-- The transactions the Host has yet to issue, in program order (20_memory.md R66; log 5). -/
  hostQueue : List Transaction
  /-- Which agent steps next; the Host, where the list is empty (46_pipeline.md R204; log 2). -/
  schedule : List Agent
  deriving DecidableEq, Repr

/-- Why a step stops with a fault. The block's own faults (60_exceptions.md R270) are states, not these. -/
inductive Fault where
  /-- Raised by the Host's step, by no instruction: its write is held in FLUSH and the schedule is exhausted, so that
  neither a Sink acceptance nor a hardware reset is to come. The spec's "stuck" (93_implementation_defined.md I9,
  I25). Safe: the machine stops where the hardware waits for ever (log 3). -/
  | hostStalled
  deriving DecidableEq, Repr

/-- Why an instruction has no meaning. -/
inductive Refusal where
  /-- Raised by `exec` for an instruction whose meaning is not written. Safe: nothing is claimed of it. -/
  | notModelled (mnemonic : String)
  /-- Raised by BUS_ERROR: an access at an offset that is misaligned or unmapped, or of another width than 32 bits,
  or with byte lanes disabled (20_memory.md R63). Safe: the spec marks the run refused. -/
  | busError (off : Offset)
  /-- Raised by a write to a read-only register (20_memory.md R64). Safe: the spec marks the run refused. -/
  | readOnlyWrite (off : Offset)
  /-- Raised by the Host's step for a descriptor the decoder rejects (30_encoding.md R81; log 17). Safe: it is no
  transaction, and nothing is claimed of it. -/
  | undecodable (e : DecodeError)
  deriving DecidableEq, Repr

/-- +0.0. -/
abbrev posZero : F32 := 0x00000000#32
/-- -0.0. -/
abbrev negZero : F32 := 0x80000000#32
/-- 1.0. -/
abbrev one : F32 := 0x3F800000#32

/-- A RecursiveFilter with every history and its output at +0.0 (10_state.md R46). -/
def Iir.zero (n : Nat) : Iir n :=
  { x := Vector.replicate n posZero, y := Vector.replicate n posZero, out := posZero }

/-- A BoxAverageFilter at its initial values (10_state.md R47). -/
def Box.zero : Box :=
  { sum := posZero, delay := Vector.replicate Config.boxMax posZero, idx := 0, out := posZero }

/-- The PhaseDiscriminator at its initial values, `prev = (1.0, +0.0)` (10_state.md R48). -/
def Disc.initial : Disc := { prevRe := one, prevIm := posZero, out := posZero }

/-- The DecimatingAverager at its initial values (10_state.md R49). -/
def Decim.initial : Decim := { sum := posZero, cnt := 0#16, ready := false, out := posZero }

/-- The machine right after hardware reset (10_state.md R55, 70_reset_and_hazards.md R300), with no transaction
issued, no schedule fixed, nothing read and nothing delivered. -/
def State.reset : State where
  ctrl := { smooth := .recursive, argsel := .exact, orderSel := Config.defaultOrder.code }
  decimN := 20#16
  boxN := 1#16
  deemphD := posZero
  scale := 0x461C4000#32
  mode := .unconf
  err := .none
  errCmd := 0#32
  pairCount := 0#32
  pcmCount := 0#32
  blockCount := 0#32
  si := Iir.zero Config.ntaps
  sq := Iir.zero Config.ntaps
  bi := Box.zero
  bq := Box.zero
  disc := Disc.initial
  dec := Decim.initial
  de := { filt := Iir.zero 2, b0 := one, a1 := negZero }
  buf := []
  held := none
  sinkLog := []
  reads := []
  hostQueue := []
  schedule := []

end Sys2Proof.Machine
end

