-- ==== Sys2Proof/Machine/Numeric.lean ====
section
/-! DEFINITION. The numeric primitives: binary32 arithmetic, comparisons and conversions (40_numerics.md, and toPCM
of 46_pipeline.md R194). A finite value is held as the whole number of units of 2^-149 that it is; each operation is
computed exactly and rounded once. -/

namespace Sys2Proof.Machine

/-- The sign bit, true for a negative sign (40_numerics.md R100). -/
def fsign (a : F32) : Bool := a.msb

/-- The biased exponent (40_numerics.md R100). -/
def fexp (a : F32) : Nat := (a.extractLsb' 23 8).toNat

/-- The fraction field (40_numerics.md R100). -/
def ffrac (a : F32) : Nat := (a.extractLsb' 0 23).toNat

/-- Exponent 255 with a nonzero fraction (40_numerics.md R100). -/
def isNaN (a : F32) : Bool := fexp a == 255 && ffrac a != 0

/-- Exponent 255 with a zero fraction (40_numerics.md R100). -/
def isInf (a : F32) : Bool := fexp a == 255 && ffrac a == 0

/-- Neither NaN nor an infinity. -/
def isFinite (a : F32) : Bool := fexp a != 255

/-- Either zero. -/
def isZero (a : F32) : Bool := fexp a == 0 && ffrac a == 0

/-- A NaN with bit 22 set (40_numerics.md R100, R105). -/
def isQuietNaN (a : F32) : Bool := isNaN a && a.getLsbD 22

/-- The magnitude of a finite value in units of 2^-149, subnormals included (40_numerics.md R100, R104). The
infinity pattern gets a number above every finite one's, as its place in the order asks. -/
def fmag (a : F32) : Nat :=
  if fexp a = 0 then ffrac a else (2 ^ 23 + ffrac a) * 2 ^ (fexp a - 1)

/-- The value of a finite pattern in units of 2^-149. -/
def fval (a : F32) : Int := if fsign a then -(fmag a : Int) else fmag a

/-- The magnitude bits of +infinity. -/
def infBits : Nat := 0x7F800000

/-- `num / den` rounded to a whole number, ties to even (40_numerics.md R101). -/
def roundHalfEven (num den : Nat) : Nat :=
  let q := num / den
  let r := num % den
  if den < 2 * r ∨ (2 * r = den ∧ q % 2 = 1) then q + 1 else q

/-- The exponent step of a magnitude of `num / den` units: the power of two by which the last place of a 24-bit
significand exceeds the unit 2^-149. -/
def stepOf (num den : Nat) : Nat := (num / den).log2 - 23

/-- The magnitude bits of the binary32 nearest to `num / den` units of 2^-149, ties to even, an infinity where that
rounds beyond the largest finite value (40_numerics.md R101, R102, R104). -/
def roundBits (num den : Nat) : Nat :=
  let s := stepOf num den
  min (s * 2 ^ 23 + roundHalfEven num (den * 2 ^ s)) infBits

/-- The pattern with this sign and these magnitude bits. -/
def withSign (neg : Bool) (bits : Nat) : F32 :=
  BitVec.ofNat 32 ((if neg then 2 ^ 31 else 0) + bits)

/-- The infinity of this sign. -/
def fInf (neg : Bool) : F32 := withSign neg infBits

/-- The quiet NaN of this draw: sign bit 22 of the draw, payload its bits 21..0 (40_numerics.md R105). -/
def quietNaN (d : BitVec 23) : F32 := d.extractLsb' 22 1 ++ 0x1FF#9 ++ d.extractLsb' 0 22

/-- The NaN that operation `op` returns on these operands (40_numerics.md R105; log 6). -/
def nanResult (op : NanOp) (a b : F32) : F32 := quietNaN (Config.nanDraw op a b)

/-- `fneg`: bit 31 inverted, on every pattern (40_numerics.md R107). -/
def fneg (a : F32) : F32 := a ^^^ 0x80000000#32

/-- `fabs`: bit 31 cleared, on every pattern (40_numerics.md R107). -/
def fabs (a : F32) : F32 := a &&& 0x7FFFFFFF#32

/-- The sum, where it is not NaN (40_numerics.md R102, R103). -/
def addCore (a b : F32) : Option F32 :=
  if isNaN a || isNaN b then none
  else if isInf a then (if isInf b && fsign a != fsign b then none else some a)
  else if isInf b then some b
  else
    let z := fval a + fval b
    if z = 0 then some (withSign (fsign a && fsign b) 0)
    else some (withSign (z < 0) (roundBits z.natAbs 1))

/-- The product, where it is not NaN (40_numerics.md R102, R103). -/
def mulCore (a b : F32) : Option F32 :=
  let neg := fsign a != fsign b
  if isNaN a || isNaN b then none
  else if isInf a then (if isZero b then none else some (fInf neg))
  else if isInf b then (if isZero a then none else some (fInf neg))
  else some (withSign neg (roundBits (fmag a * fmag b) (2 ^ 149)))

/-- The quotient, where it is not NaN (40_numerics.md R102, R103). -/
def divCore (a b : F32) : Option F32 :=
  let neg := fsign a != fsign b
  if isNaN a || isNaN b then none
  else if isInf a then (if isInf b then none else some (fInf neg))
  else if isInf b then some (withSign neg 0)
  else if isZero b then (if isZero a then none else some (fInf neg))
  else some (withSign neg (roundBits (fmag a * 2 ^ 149) (fmag b)))

/-- `fadd` (40_numerics.md R102). -/
def fadd (a b : F32) : F32 := (addCore a b).getD (nanResult .add a b)

/-- `fsub` (40_numerics.md R102). -/
def fsub (a b : F32) : F32 := (addCore a (fneg b)).getD (nanResult .sub a b)

/-- `fmul` (40_numerics.md R102). -/
def fmul (a b : F32) : F32 := (mulCore a b).getD (nanResult .mul a b)

/-- `fdiv` (40_numerics.md R102). -/
def fdiv (a b : F32) : F32 := (divCore a b).getD (nanResult .div a b)

/-- `flt` (40_numerics.md R108). -/
def flt (a b : F32) : Bool := !isNaN a && !isNaN b && fval a < fval b

/-- `fge` (40_numerics.md R108). -/
def fge (a b : F32) : Bool := !isNaN a && !isNaN b && fval b ≤ fval a

/-- The binary32 nearest to the rational `num / den` (40_numerics.md R101); it is `bits32` of 30_encoding.md R94. -/
def f32OfRat (neg : Bool) (num den : Nat) : F32 := withSign neg (roundBits (num * 2 ^ 149) den)

/-- `f32(k)`, exact for |k| ≤ 2^24 (40_numerics.md R106). -/
def f32 (k : Int) : F32 := f32OfRat (k < 0) k.natAbs 1

/-- 2147483648.0, the bound of the conversion to 32-bit integers (46_pipeline.md R194). -/
def two31 : F32 := 0x4F000000#32

/-- The conversion to a 32-bit integer, toward zero, with 0x80000000 for what does not fit (46_pipeline.md R194). -/
def toInt32 (w : F32) : BitVec 32 :=
  if isNaN w || fge w two31 || flt w (fneg two31) then 0x80000000#32
  else BitVec.ofInt 32 ((fval w).tdiv (2 ^ 149))

/-- `toPCM`: the low 16 bits of that integer, as a signed sample (46_pipeline.md R194). -/
def toPcm (w : F32) : Sample := (toInt32 w).extractLsb' 0 16

end Sys2Proof.Machine
end

