-- ==== Sys2Proof/Machine/Argument.lean ====
section
/-! DEFINITION. The two argument functions of the discriminator, ARG_EXACT and ARG_FAST (43_discriminator.md R157,
R158). -/

namespace Sys2Proof.Machine

/-- pi/4 (43_discriminator.md R157). -/
def quarterPi : F32 := 0x3F490FDB#32
/-- pi/2 (43_discriminator.md R157). -/
def halfPi : F32 := 0x3FC90FDB#32
/-- 3*pi/4 (43_discriminator.md R157). -/
def threeQuarterPi : F32 := 0x4016CBE4#32
/-- pi32, the binary32 nearest to pi (43_discriminator.md R157). -/
def pi32 : F32 := 0x40490FDB#32
/-- EPS, the binary32 nearest to 1e-10 (43_discriminator.md R158). -/
def eps : F32 := 0x2EDBE6FF#32

/-! ### The angle in fixed point

An angle is held as a whole number of units of 2^-1024, 2^-875 of the unit of a binary32 value, so that its distance
from a binary32 is a whole number. The computed angle is within `angleError` units of the real one (log 9; proved in
Laws/Angle.lean). -/

/-- The fixed point's fraction bits. -/
def angleBits : Nat := 1024

/-- The power of two by which a binary32 value's unit 2^-149 exceeds the fixed point's. -/
def unitBits : Nat := 875

/-- The bound on the error of `angleFixed`, in its units: 2^-1007 in all. -/
def angleError : Nat := 2 ^ 17

/-- The terms of the arctangent's series that are summed. -/
def atanTerms : Nat := 440

/-- The sum of `fuel` terms of `t^k/k - t^(k+2)/(k+2) + ...`, from `pow = t^k` and `t2 = t^2`. -/
def atanTail (t2 : Nat) : Nat → Nat → Nat → Int
  | 0, _, _ => 0
  | fuel + 1, k, pow => ((pow / k : Nat) : Int) - atanTail t2 fuel (k + 2) (pow * t2 / 2 ^ angleBits)

/-- The arctangent of a fixed-point `t` up to 3/7, by its series. -/
def atanSeries (t : Nat) : Int := atanTail (t * t / 2 ^ angleBits) atanTerms 1 t

/-- The fixed-point value of `p / q`, rounded down. -/
def fixedRatio (p q : Nat) : Nat := p * 2 ^ angleBits / q

/-- pi/4, by Machin's formula `4 atan (1/5) - atan (1/239)`. -/
def quarterFixed : Int := 4 * atanSeries (fixedRatio 1 5) - atanSeries (fixedRatio 1 239)

/-- The arctangent of `p / q` for 0 < p < q, reduced to an argument up to 3/7 by
`atan t = pi/4 - atan ((1-t)/(1+t))`. -/
def atanRatio (p q : Nat) : Int :=
  if 5 * p ≤ 2 * q then atanSeries (fixedRatio p q)
  else quarterFixed - atanSeries (fixedRatio (q - p) (q + p))

/-- The angle of `(x, y)` for `y > 0` and a nonzero finite `x` of another magnitude. -/
def angleFixed (ay x : F32) : Int :=
  let right :=
    if fmag ay < fmag x then atanRatio (fmag ay) (fmag x)
    else 2 * quarterFixed - atanRatio (fmag x) (fmag ay)
  if fsign x then 4 * quarterFixed - right else right

/-- One unit in the last place of a value of `k` units of 2^-149, in those units. -/
def ulpUnits (k : Nat) : Nat := 2 ^ (k.log2 - 23)

/-- `f` is finite, within [-pi32, +pi32] (43_discriminator.md R157 item 2) and within ARG_ULP = 1 unit in the last
place of the real angle (item 5), wherever in its error interval that lies: its greatest possible distance is compared
with the unit in the last place at the interval's lower end, which is at most that of the real angle (log 9). -/
def argAdmits (angle : Int) (f : F32) : Bool :=
  isFinite f && fmag f ≤ fmag pi32 &&
    (fval f * 2 ^ unitBits - angle).natAbs + angleError ≤
      ulpUnits ((angle - angleError).toNat / 2 ^ unitBits) * 2 ^ unitBits

/-- The binary32 nearest to the angle, not above pi32. -/
def argNearest (angle : Int) : F32 := withSign false (min (roundBits angle.toNat (2 ^ unitBits)) 0x40490FDB)

/-- ARG_EXACT where 43_discriminator.md R157 items 1, 3 and 4 leave the value open: the draw, if items 2 and 5 admit
it, else the nearest value, which they admit. -/
def argOpen (ay x : F32) : F32 :=
  let angle := angleFixed ay x
  if argAdmits angle (Config.argDraw ay x) then Config.argDraw ay x else argNearest angle

/-- ARG_EXACT of a `y` without its sign: the special values of 43_discriminator.md R157 item 3, the diagonals of
item 4, and the open values of item 5. -/
def argMagnitude (ay x : F32) : F32 :=
  if isNaN ay || isNaN x then nanResult .arg ay x
  else if isZero ay then (if fsign x then pi32 else posZero)
  else if isZero x then halfPi
  else if isInf x then
    (if isInf ay then (if fsign x then threeQuarterPi else quarterPi)
     else (if fsign x then pi32 else posZero))
  else if isInf ay then halfPi
  else if fmag ay = fmag x then (if fsign x then threeQuarterPi else quarterPi)
  else argOpen ay x

/-- ARG_EXACT(y, x) (43_discriminator.md R157): odd in `y` by item 4, so the sign of `y` is put on the result for
`|y|`. -/
def argExact (y x : F32) : F32 :=
  if fsign y then fneg (argMagnitude (fabs y) x) else argMagnitude (fabs y) x

/-- ARG_FAST(y, x) (43_discriminator.md R158). -/
def argFast (y x : F32) : F32 :=
  let ay := fadd (fabs y) eps
  let ang :=
    if fge x posZero then
      let r := fdiv (fsub x ay) (fadd x ay)
      fsub quarterPi (fmul quarterPi r)
    else
      let r := fdiv (fadd x ay) (fsub ay x)
      fsub threeQuarterPi (fmul quarterPi r)
  if flt y posZero then fneg ang else ang

end Sys2Proof.Machine
end

