-- ==== Sys2Proof/Machine/Operands.lean ====
section
/-! DEFINITION. The operand forms: the bytes of PAIR and the fields of a configuration data word (30_encoding.md
R89), and the byte lanes of a word (20_memory.md R65). -/

namespace Sys2Proof.Machine

/-- A PAIR byte as the pipeline takes it: zero-extended, converted exactly (30_encoding.md R89; 46_pipeline.md R190). -/
def byteValue (u : Byte) : F32 := f32 (u.setWidth 32).toNat

/-- CTRL.SMOOTH from its bit (10_state.md R21). -/
def Smooth.ofBit (b : Bool) : Smooth := if b then .box else .recursive

/-- CTRL.SMOOTH as its bit (10_state.md R21). -/
def Smooth.bit : Smooth → BitVec 1
  | .recursive => 0#1
  | .box => 1#1

/-- CTRL.ARGSEL from its bit (10_state.md R21). -/
def ArgSel.ofBit (b : Bool) : ArgSel := if b then .fast else .exact

/-- CTRL.ARGSEL as its bit (10_state.md R21). -/
def ArgSel.bit : ArgSel → BitVec 1
  | .exact => 0#1
  | .fast => 1#1

/-- The fields CTRL stores of a data word: bits 0, 1 and 13..8 (10_state.md R21; 30_encoding.md R89). -/
def ctrlOfWord (v : Word) : Ctrl :=
  { smooth := Smooth.ofBit (v.getLsbD 0), argsel := ArgSel.ofBit (v.getLsbD 1), orderSel := v.extractLsb' 8 6 }

/-- CTRL as it reads: `{18'b0, ORDER_SEL, 6'b0, ARGSEL, SMOOTH}` (47_host_interface.md R231). -/
def ctrlWord (c : Ctrl) : Word := 0#18 ++ c.orderSel ++ 0#6 ++ c.argsel.bit ++ c.smooth.bit

/-- The field DECIM_N and BOX_N store of a data word: bits 15..0 (10_state.md R23, R24). -/
def lowHalf (v : Word) : BitVec 16 := v.extractLsb' 0 16

/-- Byte lane `k` of a register word, bits 8k+7..8k (20_memory.md R65). -/
def byteLane (k : Fin 4) (v : Word) : Byte := v.extractLsb' (8 * k.val) 8

/-- A sample as the Sink receives it, low byte first (20_memory.md R70, SINK_ORDER). -/
def sampleBytes (p : Sample) : List Byte := [p.extractLsb' 0 8, p.extractLsb' 8 8]

/-- A block as the Sink receives it (20_memory.md R70). -/
def blockBytes (b : List Sample) : List Byte := b.flatMap sampleBytes

/-- The word recorded by a fault of a configuration write: `0xFF000000 | off` (47_host_interface.md R251). -/
def configFaultWord (off : Offset) : Word := 0xFF000000#32 ||| off.setWidth 32

end Sys2Proof.Machine
end

