-- ==== Sys2Proof/Machine/Flags.lean ====
section
/-! DEFINITION. The one status flag, dec_ready (10_state.md R53), and the STATUS word that shows it (R28). -/

namespace Sys2Proof.Machine

/-- The flag a decimator input leaves: set exactly when the counter it has reached is N (44_decimator.md R170). -/
def readyFlag (cnt n : BitVec 16) : Bool := cnt == n

/-- STATUS: `{23'b0, dec_ready, ERR, 1'b0, STATE}` (47_host_interface.md R237). -/
def statusWord (ready : Bool) (e : ErrCode) (m : Mode) : Word :=
  0#23 ++ BitVec.ofBool ready ++ e.code ++ 0#1 ++ m.code

end Sys2Proof.Machine
end

