-- ==== Sys2Proof/Machine/Units.lean ====
section
/-! DEFINITION. The units' operations: IIR_IN, BOX_IN, BYTEMAP, CPROD, DISC_IN, DEC_IN and DEEMPH_IN
(41_recursive_filter.md to 45_deemphasis.md). -/

namespace Sys2Proof.Machine

/-- A history shifted by one position, most recent first, with `v` at index 0 (41_recursive_filter.md R120). -/
def shiftIn {n : Nat} (v : F32) (h : Vector F32 n) : Vector F32 n :=
  ⟨⟨(v :: h.toList).take n⟩, by simp⟩

/-- A sum of products in ascending index order from +0.0, each product rounded before it is added
(41_recursive_filter.md R120; 40_numerics.md R110, R111). -/
def dot (cs hs : List F32) : F32 :=
  (cs.zip hs).foldl (fun acc p => fadd acc (fmul p.1 p.2)) posZero

/-- The output of IIR_IN for input `v` (41_recursive_filter.md R120). The history `y[1..n-1]` after the shift is
`y[0..n-2]` before it. -/
def iirOut {n : Nat} (hn : 0 < n) (b a : Vector F32 n) (f : Iir n) (v : F32) : F32 :=
  let sb := dot b.toList (shiftIn v f.x).toList
  let sa := dot a.toList.tail f.y.toList
  fdiv (fsub sb sa) a[0]

/-- IIR_IN (41_recursive_filter.md R120). -/
def iirIn {n : Nat} (hn : 0 < n) (b a : Vector F32 n) (f : Iir n) (v : F32) : Iir n :=
  let ynew := iirOut hn b a f v
  { x := shiftIn v f.x, y := shiftIn ynew f.y, out := ynew }

/-- IIR_IN of a channel smoother, with its coefficient set (41_recursive_filter.md R121). -/
def smootherIn (c : CoefSet) (f : Iir Config.ntaps) (v : F32) : Iir Config.ntaps :=
  iirIn (by decide) c.b c.a f v

/-- The box index that follows `idx` in a window of `n` (42_box_filter.md R135; log 18 for an `n` that CONSTRUCT
rejects). -/
def nextIdx (n : Nat) (idx : Fin Config.boxMax) : Fin Config.boxMax :=
  Fin.ofNat Config.boxMax ((idx.val + 1) % n)

/-- BOX_IN with window `n` (42_box_filter.md R135). -/
def boxIn (n : Nat) (b : Box) (v : F32) : Box :=
  let sum := fadd b.sum v
  let old := b.delay[b.idx]
  { sum := sum, delay := b.delay.set b.idx sum, idx := nextIdx n b.idx, out := fdiv (fsub sum old) (f32 n) }

/-- 127.0 (43_discriminator.md R150). -/
def f127 : F32 := 0x42FE0000#32

/-- BYTEMAP (43_discriminator.md R150). -/
def byteMap (s : F32) : F32 := fdiv (fsub s f127) f127

/-- CPROD, the product of `cur` with the conjugate of `prev`, as (re, im) (43_discriminator.md R152). -/
def cprod (pr pi cr ci : F32) : F32 × F32 :=
  (fadd (fmul pr cr) (fmul pi ci), fsub (fmul pr ci) (fmul pi cr))

/-- The argument function CTRL.ARGSEL selects (43_discriminator.md R156). -/
def argSelected (sel : ArgSel) (y x : F32) : F32 :=
  match sel with
  | .exact => argExact y x
  | .fast => argFast y x

/-- The byte map where the discriminator applies it, at NORM_POINT = AFTER (43_discriminator.md R153). -/
def discMap (np : NormPoint) (s : F32) : F32 :=
  match np with
  | .after => byteMap s
  | .before => s

/-- The byte map where the pair step applies it, at NORM_POINT = BEFORE (46_pipeline.md R190). -/
def pairMap (np : NormPoint) (u : F32) : F32 :=
  match np with
  | .after => u
  | .before => byteMap u

/-- DISC_IN (43_discriminator.md R153). -/
def discIn (np : NormPoint) (sel : ArgSel) (d : Disc) (a b : F32) : Disc :=
  let cr := discMap np a
  let ci := discMap np b
  let p := cprod d.prevRe d.prevIm cr ci
  { prevRe := cr, prevIm := ci, out := argSelected sel p.2 p.1 }

/-- DEC_IN with ratio `n` (44_decimator.md R170). -/
def decIn (n : BitVec 16) (d : Decim) (v : F32) : Decim :=
  let sum := fadd d.sum v
  let cnt := d.cnt + 1#16
  if readyFlag cnt n then { sum := posZero, cnt := 0#16, ready := true, out := fdiv sum (f32 n.toNat) }
  else { d with sum := sum, cnt := cnt, ready := false }

/-- The numerator of the de-emphasis filter, `[de_b0, +0.0]` (45_deemphasis.md R180). -/
def deB (e : DeEmph) : Vector F32 2 := #v[e.b0, posZero]

/-- The denominator of the de-emphasis filter, `[1.0, de_a1]` (45_deemphasis.md R180). -/
def deA (e : DeEmph) : Vector F32 2 := #v[one, e.a1]

/-- DEEMPH_IN, which is IIR_IN with two taps (45_deemphasis.md R181). -/
def deemphIn (e : DeEmph) (v : F32) : DeEmph :=
  { e with filt := iirIn (by decide) (deB e) (deA e) e.filt v }

/-- The de-emphasis filter CONSTRUCT makes from `d` (45_deemphasis.md R180). -/
def deemphInit (d : F32) : DeEmph :=
  { filt := Iir.zero 2, b0 := fsub one d, a1 := fneg d }

end Sys2Proof.Machine
end

