-- ==== Sys2Proof/Machine/Ops.lean ====
section
/-! DEFINITION. The shared operations over State: fault entry and exit, the register reads, the hold of a write, and
the pair step (60_exceptions.md, 47_host_interface.md, 46_pipeline.md). -/

namespace Sys2Proof.Machine

/-- Fault entry, `raise Fault(code, info)`: STATE, ERR and ERR_CMD, and nothing else (60_exceptions.md R276). -/
def raiseFault (code : ErrCode) (info : Word) (s : State) : State :=
  { s with mode := .fault, err := code, errCmd := info }

/-- RESET_ACTION, the one way out of FAULT: every piece of the block's state at its value after reset (10_state.md
R55; 47_host_interface.md R211; 60_exceptions.md R277, R278). What belongs to the Host, the Sink and the bus stays. -/
def resetAction (s : State) : State :=
  { State.reset with
    held := s.held, sinkLog := s.sinkLog, reads := s.reads, hostQueue := s.hostQueue, schedule := s.schedule }

/-- The output of the active I smoother (47_host_interface.md R244). -/
def smoothI (s : State) : F32 :=
  match s.ctrl.smooth with
  | .recursive => s.si.out
  | .box => s.bi.out

/-- The output of the active Q smoother (47_host_interface.md R245). -/
def smoothQ (s : State) : F32 :=
  match s.ctrl.smooth with
  | .recursive => s.sq.out
  | .box => s.bq.out

/-- The fill count `len` of the output buffer (10_state.md R51). -/
def outLen (s : State) : Nat := s.buf.length

/-- CAPS: `{BOX_MAX, OUTBUF_DEPTH}` (10_state.md R41). -/
def capsWord : Word := BitVec.ofNat 16 Config.boxMax ++ BitVec.ofNat 16 Config.outbufDepth

/-- The end of a host read: the value goes to the Host, and nothing else changes (47_host_interface.md R224). -/
def returnRead (v : Word) (s : State) : State := { s with reads := s.reads ++ [v] }

/-- The hold of a host write that arrives while STATE = FLUSH, and its effect otherwise (20_memory.md R68;
47_host_interface.md R223). -/
def issueWrite (i : Instr) (effect : State → State) (s : State) : State :=
  if s.mode = .flush then { s with held := some i } else effect s

/-- The effect of a configuration write: stored in UNCONF, ignored in FAULT, otherwise a PROTOCOL fault
(47_host_interface.md R223, R250, R251). -/
def configWrite (off : Offset) (store : State → State) (s : State) : State :=
  match s.mode with
  | .fault => s
  | .unconf => store s
  | .ready | .inblock | .flush => raiseFault .protocol (configFaultWord off) s

/-- The effect of a command that is legal in the states `legal`: ignored in FAULT, a PROTOCOL fault in a state where
it is not legal (47_host_interface.md R225; 60_exceptions.md R274). -/
def commandIn (legal : Mode) (w : Word) (effect : State → State) (s : State) : State :=
  if s.mode = .fault then s
  else if s.mode = legal then effect s
  else raiseFault .protocol w s

/-! ### The pair step (46_pipeline.md) -/

/-- Step 1 of the pair step: the active smoothers take their inputs (46_pipeline.md R190, R191). -/
def smooth (uI uQ : F32) (s : State) : State :=
  match s.ctrl.smooth with
  | .recursive =>
    { s with
      si := smootherIn (Config.coef s.ctrl.orderSel) s.si uI
      sq := smootherIn (Config.coef s.ctrl.orderSel) s.sq uQ }
  | .box => { s with bi := boxIn s.boxN.toNat s.bi uI, bq := boxIn s.boxN.toNat s.bq uQ }

/-- Step 2: the discriminator takes the two smoothed outputs (46_pipeline.md R190). -/
def discriminate (np : NormPoint) (s : State) : State :=
  { s with disc := discIn np s.ctrl.argsel s.disc (smoothI s) (smoothQ s) }

/-- Step 3: the decimator takes the discriminator's output, and the pair is counted (46_pipeline.md R190). -/
def decimate (s : State) : State :=
  { s with dec := decIn s.decimN s.dec s.disc.out, pairCount := s.pairCount + 1#32 }

/-- EMIT: de-emphasis, scaling, conversion and the append, or OUT_OVERFLOW (46_pipeline.md R192 to R195). -/
def emit (w : Word) (s : State) : State :=
  let de := deemphIn s.de s.dec.out
  let p := toPcm (fmul de.filt.out s.scale)
  if outLen s = Config.outbufDepth then raiseFault .outOverflow w { s with de := de }
  else { s with de := de, buf := s.buf ++ [p], pcmCount := s.pcmCount + 1#32 }

/-- PAIR_STEP up to the decimator (46_pipeline.md R190 steps 1 to 3). -/
def pairFront (np : NormPoint) (ib qb : Byte) (s : State) : State :=
  decimate (discriminate np (smooth (pairMap np (byteValue ib)) (pairMap np (byteValue qb)) s))

/-- PAIR_STEP (46_pipeline.md R190), for the command word `w`. -/
def pairStep (np : NormPoint) (ib qb : Byte) (w : Word) (s : State) : State :=
  let t := pairFront np ib qb s
  if t.dec.ready then emit w t else t

end Sys2Proof.Machine
end

