-- ==== Sys2Proof/Machine/BusErrors.lean ====
section
/-! DEFINITION. The accesses the bus answers with an error: writes to read-only registers (20_memory.md R64;
47_host_interface.md R222) and the accesses of 20_memory.md R63. Each is a refusal, as those rules say (log 14). -/

namespace Sys2Proof.Machine

/-- The answer to a write at a read-only offset (20_memory.md R64). -/
def refuseReadOnly (off : Offset) : Host.Outcome State Fault Refusal := .refused (.readOnlyWrite off)

/-- WR ID (47_host_interface.md R222). -/
def execWrId (_v : Word) (_s : State) : Host.Outcome State Fault Refusal := refuseReadOnly 0x000#12

/-- WR STATUS (47_host_interface.md R222). -/
def execWrStatus (_v : Word) (_s : State) : Host.Outcome State Fault Refusal := refuseReadOnly 0x01C#12

/-- WR ERR_CMD (47_host_interface.md R222). -/
def execWrErrCmd (_v : Word) (_s : State) : Host.Outcome State Fault Refusal := refuseReadOnly 0x020#12

/-- WR OUT_COUNT (47_host_interface.md R222). -/
def execWrOutCount (_v : Word) (_s : State) : Host.Outcome State Fault Refusal := refuseReadOnly 0x024#12

/-- WR PAIR_COUNT (47_host_interface.md R222). -/
def execWrPairCount (_v : Word) (_s : State) : Host.Outcome State Fault Refusal := refuseReadOnly 0x028#12

/-- WR PCM_COUNT (47_host_interface.md R222). -/
def execWrPcmCount (_v : Word) (_s : State) : Host.Outcome State Fault Refusal := refuseReadOnly 0x02C#12

/-- WR BLOCK_COUNT (47_host_interface.md R222). -/
def execWrBlockCount (_v : Word) (_s : State) : Host.Outcome State Fault Refusal := refuseReadOnly 0x030#12

/-- WR DECIM_CNT (47_host_interface.md R222). -/
def execWrDecimCnt (_v : Word) (_s : State) : Host.Outcome State Fault Refusal := refuseReadOnly 0x034#12

/-- WR DBG_SMOOTH_I (47_host_interface.md R222). -/
def execWrDbgSmoothI (_v : Word) (_s : State) : Host.Outcome State Fault Refusal := refuseReadOnly 0x038#12

/-- WR DBG_SMOOTH_Q (47_host_interface.md R222). -/
def execWrDbgSmoothQ (_v : Word) (_s : State) : Host.Outcome State Fault Refusal := refuseReadOnly 0x03C#12

/-- WR DBG_PHASE (47_host_interface.md R222). -/
def execWrDbgPhase (_v : Word) (_s : State) : Host.Outcome State Fault Refusal := refuseReadOnly 0x040#12

/-- WR DBG_DECIM_OUT (47_host_interface.md R222). -/
def execWrDbgDecimOut (_v : Word) (_s : State) : Host.Outcome State Fault Refusal := refuseReadOnly 0x044#12

/-- WR DBG_DEEMPH_OUT (47_host_interface.md R222). -/
def execWrDbgDeemphOut (_v : Word) (_s : State) : Host.Outcome State Fault Refusal := refuseReadOnly 0x048#12

/-- WR CAPS (47_host_interface.md R222). -/
def execWrCaps (_v : Word) (_s : State) : Host.Outcome State Fault Refusal := refuseReadOnly 0x04C#12

/-- BUS_ERROR (20_memory.md R63). -/
def execBusError (_write : Bool) (off : Offset) (_width : AccessWidth) (_lanes : BitVec 4) (_s : State) :
    Host.Outcome State Fault Refusal := .refused (.busError off)

end Sys2Proof.Machine
end

