-- ==== Sys2Proof/Machine/Commands.lean ====
section
/-! DEFINITION. The meanings of the commands (47_host_interface.md R210 to R215, R221, R225; 60_exceptions.md R273). -/

namespace Sys2Proof.Machine

/-- NOP has no effect, in FAULT as elsewhere (47_host_interface.md R210). -/
def nopEffect (s : State) : State := s

/-- RESET, the one command that acts in FAULT (47_host_interface.md R211). -/
def resetEffect (s : State) : State := resetAction s

/-- The member of ORDERS test of CONSTRUCT (60_exceptions.md R272 check 1). -/
def legalOrder (o : BitVec 6) : Bool := Config.orders.contains o

/-- The first CONSTRUCT check that fails, in the order of 60_exceptions.md R272. -/
def constructCheck (s : State) : ErrCode :=
  if !legalOrder s.ctrl.orderSel then .cfgOrder
  else if s.decimN = 0#16 then .cfgDecim
  else if s.ctrl.smooth = .box ∧ s.boxN = 0#16 then .cfgBox
  else if s.ctrl.smooth = .box ∧ Config.boxMax < s.boxN.toNat then .alloc
  else .none

/-- The initialisation CONSTRUCT makes (47_host_interface.md R212; 10_state.md R55). -/
def constructInit (s : State) : State :=
  { s with
    si := Iir.zero Config.ntaps, sq := Iir.zero Config.ntaps, bi := Box.zero, bq := Box.zero
    disc := Disc.initial, dec := Decim.initial, de := deemphInit s.deemphD
    buf := [], pairCount := 0#32, pcmCount := 0#32, blockCount := 0#32
    mode := .ready }

/-- CONSTRUCT in UNCONF (47_host_interface.md R212). -/
def construct (s : State) : State :=
  match constructCheck s with
  | .none => constructInit s
  | e => raiseFault e 0x02000000#32 s

/-- CONSTRUCT (47_host_interface.md R212, R225). -/
def constructEffect (s : State) : State := commandIn .unconf 0x02000000#32 construct s

/-- BLOCK_BEGIN (47_host_interface.md R213). -/
def blockBeginEffect (s : State) : State :=
  commandIn .ready 0x10000000#32 (fun s => { s with mode := .inblock }) s

/-- PAIR (47_host_interface.md R214). -/
def pairEffect (ib qb : Byte) (s : State) : State :=
  commandIn .inblock (pairWord ib qb) (pairStep Config.normPoint ib qb (pairWord ib qb)) s

/-- BLOCK_END (47_host_interface.md R215). -/
def blockEndEffect (s : State) : State :=
  commandIn .inblock 0x12000000#32 (fun s => { s with mode := .flush }) s

/-- An illegal command word: ILLEGAL_CMD, ignored in FAULT (30_encoding.md R91; 60_exceptions.md R273). -/
def illegalEffect (w : Word) (s : State) : State :=
  if s.mode = .fault then s else raiseFault .illegalCmd w s

/-- EXEC_CMD after its decoding (47_host_interface.md R225). -/
def commandEffect (c : Command) (s : State) : State :=
  match c with
  | .nop => nopEffect s
  | .reset => resetEffect s
  | .construct => constructEffect s
  | .blockBegin => blockBeginEffect s
  | .pair ib qb => pairEffect ib qb s
  | .blockEnd => blockEndEffect s
  | .illegal w => illegalEffect w s

/-- NOP (47_host_interface.md R210). -/
def execNop (s : State) : Host.Outcome State Fault Refusal := .next (issueWrite .nop nopEffect s)

/-- RESET (47_host_interface.md R211). -/
def execReset (s : State) : Host.Outcome State Fault Refusal := .next (issueWrite .reset resetEffect s)

/-- CONSTRUCT (47_host_interface.md R212). -/
def execConstruct (s : State) : Host.Outcome State Fault Refusal := .next (issueWrite .construct constructEffect s)

/-- BLOCK_BEGIN (47_host_interface.md R213). -/
def execBlockBegin (s : State) : Host.Outcome State Fault Refusal := .next (issueWrite .blockBegin blockBeginEffect s)

/-- PAIR (47_host_interface.md R214). -/
def execPair (ib qb : Byte) (s : State) : Host.Outcome State Fault Refusal :=
  .next (issueWrite (.pair ib qb) (pairEffect ib qb) s)

/-- BLOCK_END (47_host_interface.md R215). -/
def execBlockEnd (s : State) : Host.Outcome State Fault Refusal := .next (issueWrite .blockEnd blockEndEffect s)

/-- WR CMD: EXEC_CMD of its data word (47_host_interface.md R221, R225). -/
def execWrCmd (v : Word) (s : State) : Host.Outcome State Fault Refusal :=
  .next (issueWrite (.wrCmd v) (commandEffect (decodeCommand v)) s)

/-- An illegal command word (30_encoding.md R91). -/
def execIllegalCmd (w : Word) (s : State) : Host.Outcome State Fault Refusal :=
  .next (issueWrite (.illegalCmd w) (illegalEffect w) s)

end Sys2Proof.Machine
end

