-- ==== Sys2Proof/Machine/ConfigWrites.lean ====
section
/-! DEFINITION. The meanings of the configuration writes (47_host_interface.md R216 to R220, R250, R251). -/

namespace Sys2Proof.Machine

/-- WR CTRL (47_host_interface.md R216). -/
def execWrCtrl (v : Word) (s : State) : Host.Outcome State Fault Refusal :=
  .next (issueWrite (.wrCtrl v) (configWrite 0x004#12 fun s => { s with ctrl := ctrlOfWord v }) s)

/-- WR DECIM_N (47_host_interface.md R217). -/
def execWrDecimN (v : Word) (s : State) : Host.Outcome State Fault Refusal :=
  .next (issueWrite (.wrDecimN v) (configWrite 0x008#12 fun s => { s with decimN := lowHalf v }) s)

/-- WR BOX_N (47_host_interface.md R218). -/
def execWrBoxN (v : Word) (s : State) : Host.Outcome State Fault Refusal :=
  .next (issueWrite (.wrBoxN v) (configWrite 0x00C#12 fun s => { s with boxN := lowHalf v }) s)

/-- WR DEEMPH_D (47_host_interface.md R219). -/
def execWrDeemphD (v : Word) (s : State) : Host.Outcome State Fault Refusal :=
  .next (issueWrite (.wrDeemphD v) (configWrite 0x010#12 fun s => { s with deemphD := v }) s)

/-- WR SCALE (47_host_interface.md R220). -/
def execWrScale (v : Word) (s : State) : Host.Outcome State Fault Refusal :=
  .next (issueWrite (.wrScale v) (configWrite 0x014#12 fun s => { s with scale := v }) s)

end Sys2Proof.Machine
end

