-- ==== Sys2Proof/Machine/Reads.lean ====
section
/-! DEFINITION. The meanings of the register reads (47_host_interface.md R224, R230 to R249). -/

namespace Sys2Proof.Machine

/-- RD ID (47_host_interface.md R230). -/
def execRdId (s : State) : Host.Outcome State Fault Refusal := .next (returnRead Config.idWord s)

/-- RD CTRL (47_host_interface.md R231). -/
def execRdCtrl (s : State) : Host.Outcome State Fault Refusal := .next (returnRead (ctrlWord s.ctrl) s)

/-- RD DECIM_N (47_host_interface.md R232). -/
def execRdDecimN (s : State) : Host.Outcome State Fault Refusal := .next (returnRead (s.decimN.setWidth 32) s)

/-- RD BOX_N (47_host_interface.md R233). -/
def execRdBoxN (s : State) : Host.Outcome State Fault Refusal := .next (returnRead (s.boxN.setWidth 32) s)

/-- RD DEEMPH_D (47_host_interface.md R234). -/
def execRdDeemphD (s : State) : Host.Outcome State Fault Refusal := .next (returnRead s.deemphD s)

/-- RD SCALE (47_host_interface.md R235). -/
def execRdScale (s : State) : Host.Outcome State Fault Refusal := .next (returnRead s.scale s)

/-- RD CMD (47_host_interface.md R236). -/
def execRdCmd (s : State) : Host.Outcome State Fault Refusal := .next (returnRead 0#32 s)

/-- RD STATUS (47_host_interface.md R237). -/
def execRdStatus (s : State) : Host.Outcome State Fault Refusal := .next (returnRead (statusWord s.dec.ready s.err s.mode) s)

/-- RD ERR_CMD (47_host_interface.md R238). -/
def execRdErrCmd (s : State) : Host.Outcome State Fault Refusal := .next (returnRead s.errCmd s)

/-- RD OUT_COUNT (47_host_interface.md R239). -/
def execRdOutCount (s : State) : Host.Outcome State Fault Refusal := .next (returnRead (BitVec.ofNat 32 (outLen s)) s)

/-- RD PAIR_COUNT (47_host_interface.md R240). -/
def execRdPairCount (s : State) : Host.Outcome State Fault Refusal := .next (returnRead s.pairCount s)

/-- RD PCM_COUNT (47_host_interface.md R241). -/
def execRdPcmCount (s : State) : Host.Outcome State Fault Refusal := .next (returnRead s.pcmCount s)

/-- RD BLOCK_COUNT (47_host_interface.md R242). -/
def execRdBlockCount (s : State) : Host.Outcome State Fault Refusal := .next (returnRead s.blockCount s)

/-- RD DECIM_CNT (47_host_interface.md R243). -/
def execRdDecimCnt (s : State) : Host.Outcome State Fault Refusal := .next (returnRead (s.dec.cnt.setWidth 32) s)

/-- RD DBG_SMOOTH_I (47_host_interface.md R244). -/
def execRdDbgSmoothI (s : State) : Host.Outcome State Fault Refusal := .next (returnRead (smoothI s) s)

/-- RD DBG_SMOOTH_Q (47_host_interface.md R245). -/
def execRdDbgSmoothQ (s : State) : Host.Outcome State Fault Refusal := .next (returnRead (smoothQ s) s)

/-- RD DBG_PHASE (47_host_interface.md R246). -/
def execRdDbgPhase (s : State) : Host.Outcome State Fault Refusal := .next (returnRead s.disc.out s)

/-- RD DBG_DECIM_OUT (47_host_interface.md R247). -/
def execRdDbgDecimOut (s : State) : Host.Outcome State Fault Refusal := .next (returnRead s.dec.out s)

/-- RD DBG_DEEMPH_OUT (47_host_interface.md R248). -/
def execRdDbgDeemphOut (s : State) : Host.Outcome State Fault Refusal := .next (returnRead s.de.filt.out s)

/-- RD CAPS (47_host_interface.md R249). -/
def execRdCaps (s : State) : Host.Outcome State Fault Refusal := .next (returnRead capsWord s)

/-- REGVAL(off), the value a read at `off` returns, where `off` is mapped (47_host_interface.md R224). -/
def regVal (off : Offset) (s : State) : Option Word :=
  [(0x000#12, Config.idWord), (0x004#12, ctrlWord s.ctrl), (0x008#12, s.decimN.setWidth 32),
   (0x00C#12, s.boxN.setWidth 32), (0x010#12, s.deemphD), (0x014#12, s.scale), (0x018#12, 0#32),
   (0x01C#12, statusWord s.dec.ready s.err s.mode), (0x020#12, s.errCmd),
   (0x024#12, BitVec.ofNat 32 (outLen s)), (0x028#12, s.pairCount), (0x02C#12, s.pcmCount),
   (0x030#12, s.blockCount), (0x034#12, s.dec.cnt.setWidth 32), (0x038#12, smoothI s), (0x03C#12, smoothQ s),
   (0x040#12, s.disc.out), (0x044#12, s.dec.out), (0x048#12, s.de.filt.out), (0x04C#12, capsWord)].lookup off

end Sys2Proof.Machine
end

