-- ==== Sys2Proof/Machine/Dispatch.lean ====
section
/-! DEFINITION. The instruction's meaning, one arm per constructor of Instr. -/

namespace Sys2Proof.Machine

def exec (i : Instr) (s : State) : Host.Outcome State Fault Refusal :=
  match i with
  | .nop => Sys2Proof.Machine.execNop s
  | .reset => Sys2Proof.Machine.execReset s
  | .construct => Sys2Proof.Machine.execConstruct s
  | .blockBegin => Sys2Proof.Machine.execBlockBegin s
  | .pair ib qb => Sys2Proof.Machine.execPair ib qb s
  | .blockEnd => Sys2Proof.Machine.execBlockEnd s
  | .wrCtrl v => Sys2Proof.Machine.execWrCtrl v s
  | .wrDecimN v => Sys2Proof.Machine.execWrDecimN v s
  | .wrBoxN v => Sys2Proof.Machine.execWrBoxN v s
  | .wrDeemphD v => Sys2Proof.Machine.execWrDeemphD v s
  | .wrScale v => Sys2Proof.Machine.execWrScale v s
  | .wrCmd v => Sys2Proof.Machine.execWrCmd v s
  | .wrId v => Sys2Proof.Machine.execWrId v s
  | .wrStatus v => Sys2Proof.Machine.execWrStatus v s
  | .wrErrCmd v => Sys2Proof.Machine.execWrErrCmd v s
  | .wrOutCount v => Sys2Proof.Machine.execWrOutCount v s
  | .wrPairCount v => Sys2Proof.Machine.execWrPairCount v s
  | .wrPcmCount v => Sys2Proof.Machine.execWrPcmCount v s
  | .wrBlockCount v => Sys2Proof.Machine.execWrBlockCount v s
  | .wrDecimCnt v => Sys2Proof.Machine.execWrDecimCnt v s
  | .wrDbgSmoothI v => Sys2Proof.Machine.execWrDbgSmoothI v s
  | .wrDbgSmoothQ v => Sys2Proof.Machine.execWrDbgSmoothQ v s
  | .wrDbgPhase v => Sys2Proof.Machine.execWrDbgPhase v s
  | .wrDbgDecimOut v => Sys2Proof.Machine.execWrDbgDecimOut v s
  | .wrDbgDeemphOut v => Sys2Proof.Machine.execWrDbgDeemphOut v s
  | .wrCaps v => Sys2Proof.Machine.execWrCaps v s
  | .rdId => Sys2Proof.Machine.execRdId s
  | .rdCtrl => Sys2Proof.Machine.execRdCtrl s
  | .rdDecimN => Sys2Proof.Machine.execRdDecimN s
  | .rdBoxN => Sys2Proof.Machine.execRdBoxN s
  | .rdDeemphD => Sys2Proof.Machine.execRdDeemphD s
  | .rdScale => Sys2Proof.Machine.execRdScale s
  | .rdCmd => Sys2Proof.Machine.execRdCmd s
  | .rdStatus => Sys2Proof.Machine.execRdStatus s
  | .rdErrCmd => Sys2Proof.Machine.execRdErrCmd s
  | .rdOutCount => Sys2Proof.Machine.execRdOutCount s
  | .rdPairCount => Sys2Proof.Machine.execRdPairCount s
  | .rdPcmCount => Sys2Proof.Machine.execRdPcmCount s
  | .rdBlockCount => Sys2Proof.Machine.execRdBlockCount s
  | .rdDecimCnt => Sys2Proof.Machine.execRdDecimCnt s
  | .rdDbgSmoothI => Sys2Proof.Machine.execRdDbgSmoothI s
  | .rdDbgSmoothQ => Sys2Proof.Machine.execRdDbgSmoothQ s
  | .rdDbgPhase => Sys2Proof.Machine.execRdDbgPhase s
  | .rdDbgDecimOut => Sys2Proof.Machine.execRdDbgDecimOut s
  | .rdDbgDeemphOut => Sys2Proof.Machine.execRdDbgDeemphOut s
  | .rdCaps => Sys2Proof.Machine.execRdCaps s
  | .busError write off width lanes => Sys2Proof.Machine.execBusError write off width lanes s
  | .illegalCmd w => Sys2Proof.Machine.execIllegalCmd w s

end Sys2Proof.Machine
end

