-- ==== Sys2Proof/Machine/Agents.lean ====
section
/-! DEFINITION. The steps of the agents: the Host's issue of a transaction, the Sink's acceptance, the platform's
reset (00_scope.md R4, 46_pipeline.md R203, 70_reset_and_hazards.md R300). -/

namespace Sys2Proof.Machine

/-- SINK_ACCEPT, enabled only while STATE = FLUSH (46_pipeline.md R203). -/
def sinkAccept (s : State) : State :=
  if s.mode = .flush then
    { s with sinkLog := s.sinkLog ++ [s.buf], buf := [], blockCount := s.blockCount + 1#32, mode := .ready }
  else s

/-- What the Sink port offers: one block while STATE = FLUSH, nothing otherwise (46_pipeline.md R201;
60_exceptions.md R277). -/
def sinkOffer (s : State) : Option (List Sample) := if s.mode = .flush then some s.buf else none

/-- HW_RESET: the held write is aborted, the offered block discarded, and RESET_ACTION taken
(70_reset_and_hazards.md R300). -/
def hwReset (s : State) : State := { resetAction s with held := none }

/-- The Host's step. A held write waits while STATE = FLUSH and then executes (20_memory.md R68), and the Host issues
nothing else meanwhile, reads included (log 15); otherwise the next
transaction is decoded and executed (47_host_interface.md R223, R224); a Host with nothing left has no step.
`exhausted` says that the schedule names no further agent (log 3). That the hold, each wait and the execution of a held
write are steps of their own is the model's choice (log 24). -/
def hostStep (exhausted : Bool) (s : State) : Host.Outcome State Fault Refusal :=
  match s.held with
  | some i =>
    if s.mode = .flush then (if exhausted then .fault .hostStalled else .next s)
    else exec i { s with held := none }
  | none =>
    match s.hostQueue with
    | [] => .next s
    | t :: rest =>
      match decode t with
      | .ok i => exec i { s with hostQueue := rest }
      | .error e => .refused (.undecodable e)

/-- One step of the agent the schedule names; of the Host, where it names none (log 2). -/
def agentStep (s : State) : Host.Outcome State Fault Refusal :=
  match s.schedule with
  | [] => hostStep true s
  | .host :: rest => hostStep false { s with schedule := rest }
  | .sink :: rest => .next (sinkAccept { s with schedule := rest })
  | .hwReset :: rest => .next (hwReset { s with schedule := rest })

/-- `s` with `t` as the transaction its very next step issues: first in the Host's queue, no write held, and the Host
the next agent (log 5). -/
def placeNext (t : Transaction) (s : State) : State :=
  { s with hostQueue := t :: s.hostQueue, held := none, schedule := .host :: s.schedule }

/-- The window offset of a bus address, where the address lies in the window (20_memory.md R60; log 10). -/
def windowOffset (addr : Nat) : Option Offset :=
  if Config.base ≤ addr ∧ addr < Config.base + 4096 then some (BitVec.ofNat 12 (addr - Config.base)) else none

/-- `MemRead(addr, 4)` by the Host: one read transaction more for this block, where the address lies in its window
(00_scope.md R10). -/
def memRead (addr : Nat) (s : State) : State :=
  match windowOffset addr with
  | some off => { s with hostQueue := s.hostQueue ++ [readAt off] }
  | none => s

/-- `MemWrite(addr, 4, v)` by the Host (00_scope.md R10). -/
def memWrite (addr : Nat) (v : Word) (s : State) : State :=
  match windowOffset addr with
  | some off => { s with hostQueue := s.hostQueue ++ [writeAt off v] }
  | none => s

end Sys2Proof.Machine
end

