-- ==== Sys2Proof/Machine/Step.lean ====
section
/-! DEFINITION. The step of the machine (00_scope.md R2, R4). -/

namespace Sys2Proof.Machine

/-- One step: of the Host, the Sink or the reset input. -/
def step (s : State) : Host.Outcome State Fault Refusal := agentStep s

/-- `s` with the instruction whose bits are `w` as the one that its very next step runs (log 5). -/
def State.withFetchWord (s : State) (nbits w : Nat) : State := placeNext (tableTransaction nbits w) s

end Sys2Proof.Machine
end

