-- ==== Sys2Proof/Machine/Assembler.lean ====
section
/-! DEFINITION. The assembly lines for host transactions and their expansions (30_encoding.md R93, R94), as syntax
trees, and the layout of the input stream (20_memory.md R69). -/

namespace Sys2Proof.Machine

/-- The register names of 10_state.md R20 to R41. -/
inductive RegName where
  | id
  | ctrl
  | decimN
  | boxN
  | deemphD
  | scale
  | cmd
  | status
  | errCmd
  | outCount
  | pairCount
  | pcmCount
  | blockCount
  | decimCnt
  | dbgSmoothI
  | dbgSmoothQ
  | dbgPhase
  | dbgDecimOut
  | dbgDeemphOut
  | caps
  deriving DecidableEq, Repr

/-- A register's offset (10_state.md section 1). -/
def RegName.offset : RegName → Offset
  | .id => 0x000#12
  | .ctrl => 0x004#12
  | .decimN => 0x008#12
  | .boxN => 0x00C#12
  | .deemphD => 0x010#12
  | .scale => 0x014#12
  | .cmd => 0x018#12
  | .status => 0x01C#12
  | .errCmd => 0x020#12
  | .outCount => 0x024#12
  | .pairCount => 0x028#12
  | .pcmCount => 0x02C#12
  | .blockCount => 0x030#12
  | .decimCnt => 0x034#12
  | .dbgSmoothI => 0x038#12
  | .dbgSmoothQ => 0x03C#12
  | .dbgPhase => 0x040#12
  | .dbgDecimOut => 0x044#12
  | .dbgDeemphOut => 0x048#12
  | .caps => 0x04C#12

/-- A line of assembly (30_encoding.md R93) or a pseudo-instruction (R94). The decimal of `WRF` is given as the
rational it denotes. -/
inductive AsmLine where
  | nop
  | reset
  | construct
  | blockBegin
  | pair (i q : Byte)
  | blockEnd
  | wr (r : RegName) (v : Word)
  | rd (r : RegName)
  | sink
  | wrf (r : RegName) (neg : Bool) (num den : Nat)
  | config (smooth arg : Bool) (order : BitVec 6)
  | block (u : List Byte)
  deriving DecidableEq, Repr

/-- The PAIR command words of a byte stream `I,Q,I,Q,...`; an odd length has none (20_memory.md R69). -/
def pairWords : List Byte → Option (List Word)
  | [] => some []
  | [_] => none
  | i :: q :: rest => (pairWords rest).map (pairWord i q :: ·)

/-- A write of a command word at CMD (30_encoding.md R93). -/
def writeCmd (w : Word) : Transaction := writeAt 0x018#12 w

/-- The transactions a line stands for (30_encoding.md R93, R94); SINK is none. -/
def AsmLine.transactions : AsmLine → Option (List Transaction)
  | .nop => some [writeCmd 0x00000000#32]
  | .reset => some [writeCmd 0x01000000#32]
  | .construct => some [writeCmd 0x02000000#32]
  | .blockBegin => some [writeCmd 0x10000000#32]
  | .pair i q => some [writeCmd (0x11000000#32 ||| (q.setWidth 32 <<< 8) ||| i.setWidth 32)]
  | .blockEnd => some [writeCmd 0x12000000#32]
  | .wr r v => some [writeAt r.offset v]
  | .rd r => some [readAt r.offset]
  | .sink => some []
  | .wrf r neg num den => some [writeAt r.offset (f32OfRat neg num den)]
  | .config smooth arg order =>
      some [writeAt 0x004#12
        ((order.setWidth 32 <<< 8) ||| ((BitVec.ofBool arg).setWidth 32 <<< 1) ||| (BitVec.ofBool smooth).setWidth 32)]
  | .block u =>
      (pairWords u).map fun ws => [writeCmd 0x10000000#32] ++ ws.map writeCmd ++ [writeCmd 0x12000000#32]

/-- What a line puts into a run, in order: a transaction, or `none` for the Sink's acceptance (30_encoding.md R93). -/
def AsmLine.events : AsmLine → List (Option Transaction)
  | .sink => [none]
  | l => (l.transactions.getD []).map some

/-- The transaction is a write: its descriptor's bit 15, or a command word (30_encoding.md R80, R81). -/
def isBusWrite : Transaction → Bool
  | .busacc a => a.desc.getLsbD 15
  | .cmd _ => true

/-- Where a program's text stands: whether a block is pending, and the transactions that the Host's entries have reached
and not completed, the held write first. -/
structure Progress where
  pending : Bool
  late    : List Transaction
  deriving DecidableEq, Repr

/-- A transaction of the text: it completes, unless a block is pending and it is a write, which is held, or stands
behind one (20_memory.md R66, R68). A BLOCK_END leaves a block pending (log 24). -/
def Progress.issue (p : Progress) (t : Transaction) : Progress :=
  if p.pending then
    if p.late.isEmpty && !isBusWrite t then p else { p with late := p.late ++ [t] }
  else { p with pending := t == writeCmd 0x12000000#32 }

/-- The Sink's acceptance: the block is no longer pending, and what was late is issued. -/
def Progress.accept (p : Progress) : Progress := p.late.foldl Progress.issue { pending := false, late := [] }

/-- The schedule of a program's events: one entry of the Host for each transaction, and at SINK one of the Sink and one
more of the Host for each transaction that is late, so that every acceptance stands where the text marks it. That a
held write takes two of the Host's entries, one to be held and one to execute, is the model's choice (log 24). -/
def eventAgents : Progress → List (Option Transaction) → List Agent
  | _, [] => []
  | p, some t :: rest => .host :: eventAgents (p.issue t) rest
  | p, none :: rest => .sink :: (p.late.map (fun _ => Agent.host) ++ eventAgents p.accept rest)

/-- `s` with the program's transactions as the Host's queue and its agents as the schedule (log 5; log 24). -/
def loadProgram (p : List AsmLine) (s : State) : State :=
  { s with
    hostQueue := (p.flatMap AsmLine.events).filterMap id
    schedule := eventAgents { pending := false, late := [] } (p.flatMap AsmLine.events) }

end Sys2Proof.Machine
end

