-- ==== Sys2Proof/Safety.lean ====
section
/-! DEFINITION. What a state that runs reach satisfies, when a run has ended, and what is observed of it
(70_reset_and_hazards.md R311, R312). -/

namespace Sys2Proof.Machine

/-- The instruction is a host write the bus accepts: a command, WR CMD or a configuration write (20_memory.md R68). -/
def isWrite : Instr → Bool
  | .nop | .reset | .construct | .blockBegin | .pair _ _ | .blockEnd | .illegalCmd _
  | .wrCtrl _ | .wrDecimN _ | .wrBoxN _ | .wrDeemphD _ | .wrScale _ | .wrCmd _ => true
  | .wrId _ | .wrStatus _ | .wrErrCmd _ | .wrOutCount _ | .wrPairCount _ | .wrPcmCount _
  | .wrBlockCount _ | .wrDecimCnt _ | .wrDbgSmoothI _ | .wrDbgSmoothQ _ | .wrDbgPhase _
  | .wrDbgDecimOut _ | .wrDbgDeemphOut _ | .wrCaps _ | .busError _ _ _ _
  | .rdId | .rdCtrl | .rdDecimN | .rdBoxN | .rdDeemphD | .rdScale | .rdCmd | .rdStatus | .rdErrCmd
  | .rdOutCount | .rdPairCount | .rdPcmCount | .rdBlockCount | .rdDecimCnt | .rdDbgSmoothI
  | .rdDbgSmoothQ | .rdDbgPhase | .rdDbgDecimOut | .rdDbgDeemphOut | .rdCaps => false

/-- The instruction is one of the 20 register reads (47_host_interface.md R224). -/
def isRead : Instr → Bool
  | .rdId | .rdCtrl | .rdDecimN | .rdBoxN | .rdDeemphD | .rdScale | .rdCmd | .rdStatus | .rdErrCmd
  | .rdOutCount | .rdPairCount | .rdPcmCount | .rdBlockCount | .rdDecimCnt | .rdDbgSmoothI
  | .rdDbgSmoothQ | .rdDbgPhase | .rdDbgDecimOut | .rdDbgDeemphOut | .rdCaps => true
  | .nop | .reset | .construct | .blockBegin | .pair _ _ | .blockEnd | .illegalCmd _
  | .wrCtrl _ | .wrDecimN _ | .wrBoxN _ | .wrDeemphD _ | .wrScale _ | .wrCmd _
  | .wrId _ | .wrStatus _ | .wrErrCmd _ | .wrOutCount _ | .wrPairCount _ | .wrPcmCount _
  | .wrBlockCount _ | .wrDecimCnt _ | .wrDbgSmoothI _ | .wrDbgSmoothQ _ | .wrDbgPhase _
  | .wrDbgDecimOut _ | .wrDbgDeemphOut _ | .wrCaps _ | .busError _ _ _ _ => false

/-- The pipeline is constructed and no fault is recorded: READY, INBLOCK or FLUSH (10_state.md R29). -/
def constructed (m : Mode) : Bool := m == .ready || m == .inblock || m == .flush

/-- The invariant of the machine: what the spec says of every state a run reaches. -/
structure State.Inv (s : State) : Prop where
  /-- The configuration of a constructed pipeline passed every CONSTRUCT check (47_host_interface.md R212). -/
  configLegal : constructed s.mode = true → constructCheck s = .none
  /-- `dec_cnt` is below N between calls (10_state.md R49; 44_decimator.md R170). -/
  cntBelowN : constructed s.mode = true → s.dec.cnt < s.decimN
  /-- A box index in use is below the window (10_state.md R47). -/
  idxBelowN : constructed s.mode = true → s.ctrl.smooth = .box →
    s.bi.idx.val < s.boxN.toNat ∧ s.bq.idx.val < s.boxN.toNat
  /-- OUT_COUNT is at most OUTBUF_DEPTH (10_state.md R31). -/
  lenBounded : outLen s ≤ Config.outbufDepth
  /-- The output buffer is empty outside a block (46_pipeline.md R200). -/
  emptyOutsideBlock : s.mode = .unconf ∨ s.mode = .ready → s.buf = []
  /-- A fault code is recorded exactly in FAULT (60_exceptions.md R270, R276, R277). -/
  errIffFault : s.err = .none ↔ s.mode ≠ .fault
  /-- ERR_CMD is 0 outside FAULT (10_state.md R30; 60_exceptions.md R270). -/
  errCmdZero : s.mode ≠ .fault → s.errCmd = 0#32
  /-- The smoothers that CTRL.SMOOTH does not select hold their initial value (42_box_filter.md R138). -/
  unusedBox : s.ctrl.smooth = .recursive → s.bi = Box.zero ∧ s.bq = Box.zero
  /-- The smoothers that CTRL.SMOOTH does not select hold their initial value (42_box_filter.md R138). -/
  unusedIir : s.ctrl.smooth = .box → s.si = Iir.zero Config.ntaps ∧ s.sq = Iir.zero Config.ntaps
  /-- In UNCONF every unit and counter holds its value after reset (10_state.md R55, 70_reset_and_hazards.md R302). -/
  unitsAtReset : s.mode = .unconf →
    s.si = Iir.zero Config.ntaps ∧ s.sq = Iir.zero Config.ntaps ∧ s.bi = Box.zero ∧ s.bq = Box.zero ∧
    s.disc = Disc.initial ∧ s.dec = Decim.initial ∧ s.de = State.reset.de ∧
    s.pairCount = 0#32 ∧ s.pcmCount = 0#32 ∧ s.blockCount = 0#32
  /-- After a ready cycle the decimator's sum and counter are zero (44_decimator.md R170). -/
  readyClears : s.dec.ready = true → s.dec.sum = posZero ∧ s.dec.cnt = 0#16
  /-- A write is held only in FLUSH, or in READY until its turn comes after the acceptance (20_memory.md R68). -/
  heldMode : s.held ≠ none → s.mode = .flush ∨ s.mode = .ready
  /-- Only a write is ever held, and it is a well-formed instruction (20_memory.md R68). -/
  heldIsWrite : ∀ i, s.held = some i → isWrite i = true ∧ i.wf = true

/-- A run has ended: the Host has nothing left, no block is pending, no write is held (70_reset_and_hazards.md R311). -/
def runEnded (s : State) : Bool := s.hostQueue.isEmpty && s.mode != .flush && s.held.isNone

/-- What is observed of a run that has ended (70_reset_and_hazards.md R311). -/
structure Observation where
  /-- The bytes of each block the Sink accepted, in order. -/
  blocks : List (List Byte)
  /-- The values the Host's reads returned, in order. -/
  reads  : List Word
  /-- The final register values, by offset. -/
  regs   : List (Option Word)
  deriving DecidableEq, Repr

/-- The observation of a state (70_reset_and_hazards.md R311). -/
def observe (s : State) : Observation :=
  { blocks := s.sinkLog.map blockBytes
    reads := s.reads
    regs := readTable.map fun r => regVal r.1 s }

/-- The states that a write may lead to from a state other than FLUSH: the table of 47_host_interface.md R252. A
transaction that is no accepted write leads nowhere else. -/
def nextModes (m : Mode) : Instr → List Mode
  | .nop => [m]
  | .reset => [.unconf]
  | .construct => if m = .unconf then [.ready, .fault] else [.fault]
  | .blockBegin => if m = .ready then [.inblock] else [.fault]
  | .pair _ _ => if m = .inblock then [.inblock, .fault] else [.fault]
  | .blockEnd => if m = .inblock then [.flush] else [.fault]
  | .illegalCmd _ => [.fault]
  | .wrCtrl _ | .wrDecimN _ | .wrBoxN _ | .wrDeemphD _ | .wrScale _ => if m = .unconf then [.unconf] else [.fault]
  | .wrCmd v =>
    match decodeCommand v with
    | .nop => [m]
    | .reset => [.unconf]
    | .construct => if m = .unconf then [.ready, .fault] else [.fault]
    | .blockBegin => if m = .ready then [.inblock] else [.fault]
    | .pair _ _ => if m = .inblock then [.inblock, .fault] else [.fault]
    | .blockEnd => if m = .inblock then [.flush] else [.fault]
    | .illegal _ => [.fault]
  | .wrId _ | .wrStatus _ | .wrErrCmd _ | .wrOutCount _ | .wrPairCount _ | .wrPcmCount _
  | .wrBlockCount _ | .wrDecimCnt _ | .wrDbgSmoothI _ | .wrDbgSmoothQ _ | .wrDbgPhase _
  | .wrDbgDecimOut _ | .wrDbgDeemphOut _ | .wrCaps _ | .busError _ _ _ _
  | .rdId | .rdCtrl | .rdDecimN | .rdBoxN | .rdDeemphD | .rdScale | .rdCmd | .rdStatus | .rdErrCmd
  | .rdOutCount | .rdPairCount | .rdPcmCount | .rdBlockCount | .rdDecimCnt | .rdDbgSmoothI
  | .rdDbgSmoothQ | .rdDbgPhase | .rdDbgDecimOut | .rdDbgDeemphOut | .rdCaps => [m]

/-- The word that a fault raised by this transaction records in ERR_CMD: the command word, or `0xFF000000` with the
offset of a configuration write (60_exceptions.md R270, R276). A transaction that raises no fault is given 0. -/
def faultWord : Instr → Word
  | .construct => 0x02000000#32
  | .blockBegin => 0x10000000#32
  | .pair ib qb => 0x11#8 ++ 0x00#8 ++ qb ++ ib
  | .blockEnd => 0x12000000#32
  | .illegalCmd w => w
  | .wrCmd v => v
  | .wrCtrl _ => 0xFF000004#32
  | .wrDecimN _ => 0xFF000008#32
  | .wrBoxN _ => 0xFF00000C#32
  | .wrDeemphD _ => 0xFF000010#32
  | .wrScale _ => 0xFF000014#32
  | .nop | .reset
  | .wrId _ | .wrStatus _ | .wrErrCmd _ | .wrOutCount _ | .wrPairCount _ | .wrPcmCount _
  | .wrBlockCount _ | .wrDecimCnt _ | .wrDbgSmoothI _ | .wrDbgSmoothQ _ | .wrDbgPhase _
  | .wrDbgDecimOut _ | .wrDbgDeemphOut _ | .wrCaps _ | .busError _ _ _ _
  | .rdId | .rdCtrl | .rdDecimN | .rdBoxN | .rdDeemphD | .rdScale | .rdCmd | .rdStatus | .rdErrCmd
  | .rdOutCount | .rdPairCount | .rdPcmCount | .rdBlockCount | .rdDecimCnt | .rdDbgSmoothI
  | .rdDbgSmoothQ | .rdDbgPhase | .rdDbgDecimOut | .rdDbgDeemphOut | .rdCaps => 0#32

/-- A sequence of PAIR commands, executed in order until one does not answer a next state. -/
def runPairs : List (Byte × Byte) → State → Host.Outcome State Fault Refusal
  | [], s => .next s
  | p :: ps, s =>
    match exec (.pair p.1 p.2) s with
    | .next t => runPairs ps t
    | .fault r => .fault r
    | .refused r => .refused r

/-- The box smoother after the inputs `vs`, from its CONSTRUCT state (42_box_filter.md R136). -/
def boxRun (n : Nat) (vs : List F32) : Box := vs.foldl (boxIn n) Box.zero

/-- The running sum after the first `k` of the inputs `vs`; +0.0 before the first (42_box_filter.md R136). -/
def runSum (vs : List F32) (k : Nat) : F32 := (vs.take k).foldl fadd posZero

/-- The decimator after the inputs `vs`, from its CONSTRUCT state (44_decimator.md R171). -/
def decRun (n : BitVec 16) (vs : List F32) : Decim := vs.foldl (decIn n) Decim.initial

/-- A named configuration: the values of the five configuration registers (10_state.md R21, R23 to R26). -/
structure Configuration where
  /-- CTRL. -/
  ctrl    : Ctrl
  /-- DECIM_N. -/
  decimN  : BitVec 16
  /-- BOX_N. -/
  boxN    : BitVec 16
  /-- DEEMPH_D. -/
  deemphD : F32
  /-- SCALE. -/
  scale   : F32
  deriving DecidableEq, Repr

/-- The configuration that a state's registers hold. -/
def State.configuration (s : State) : Configuration :=
  { ctrl := s.ctrl, decimN := s.decimN, boxN := s.boxN, deemphD := s.deemphD, scale := s.scale }

/-- The configuration registers written, everything else as it is. -/
def State.configured (c : Configuration) (s : State) : State :=
  { s with ctrl := c.ctrl, decimN := c.decimN, boxN := c.boxN, deemphD := c.deemphD, scale := c.scale }

/-- The clean-entry state of a claim about a host program: the state right after HW_RESET. What belongs to the Host and
the Sink (the program, the schedule, what was observed) is as the claim names it (70_reset_and_hazards.md R300, R312). -/
def resetEntry (s : State) : Bool := decide (s = hwReset s)

/-- The clean-entry state of a claim about blocks only: the state right after a successful CONSTRUCT with the named
configuration, every register, unit and counter with it (70_reset_and_hazards.md R312; 47_host_interface.md R212). -/
def blockEntry (c : Configuration) (s : State) : Bool :=
  decide (constructCheck s = .none ∧ s = constructInit ((hwReset s).configured c))

/-- The launch premises: one of the two clean-entry states, and no other (70_reset_and_hazards.md R312). -/
def cleanEntry (s : State) : Bool := resetEntry s || blockEntry s.configuration s

end Sys2Proof.Machine
end

