-- ==== Sys2Proof/Certificates/Slice0/Obligations.lean ====
section
/-! DEFINITION. The statements about the model, for the provers. Each docstring names the rules of spec/ it is about. -/

open Sys2Proof Sys2Proof.Machine

/-! ### Encoding -/

/-- 30_encoding.md R80 to R91: decoding the encoding of a well-formed instruction gives it back. -/
def Obligations.DecodeOfEncodeIsTheInstruction : Prop :=
  ∀ i : Instr, i.wf = true → decode (encode i) = .ok i

/-- The decoder gives only well-formed instructions: an illegal word only where R91 says so, a bus error only where
R63 does. -/
def Obligations.DecodedInstructionsAreWellFormed : Prop :=
  ∀ (q : Transaction) (i : Instr), decode q = .ok i → i.wf = true

/-- The command opcode map of 30_encoding.md R90: each command is decoded from exactly the words that its match and
mask admit, PAIR with I in bits 7..0 and Q in bits 15..8, and every other word is illegal. -/
def Obligations.CommandWordsDecodeByMatchAndMask : Prop :=
  ∀ w : Word,
    (decodeCommand w = .nop ↔ w = 0x00000000#32) ∧
    (decodeCommand w = .reset ↔ w = 0x01000000#32) ∧
    (decodeCommand w = .construct ↔ w = 0x02000000#32) ∧
    (decodeCommand w = .blockBegin ↔ w = 0x10000000#32) ∧
    (decodeCommand w = .blockEnd ↔ w = 0x12000000#32) ∧
    (∀ ib qb : Byte, decodeCommand w = .pair ib qb ↔
      w &&& 0xFFFF0000#32 = 0x11000000#32 ∧ ib = w.extractLsb' 0 8 ∧ qb = w.extractLsb' 8 8) ∧
    (decodeCommand w = .illegal w ↔
      w ≠ 0x00000000#32 ∧ w ≠ 0x01000000#32 ∧ w ≠ 0x02000000#32 ∧ w ≠ 0x10000000#32 ∧ w ≠ 0x12000000#32 ∧
        w &&& 0xFFFF0000#32 ≠ 0x11000000#32)

/-- 20_memory.md R62, R63: among the accesses whose descriptor's bits 14:12 are 0, exactly those of another width, with
a byte lane disabled, misaligned or unmapped are bus errors; and a bus error is refused in every state. -/
def Obligations.BusErrorsAreTheBrokenAccesses : Prop :=
  (∀ a : Access, descReserved a.desc = 0#3 →
    ((a.width ≠ .w32 ∨ a.lanes ≠ 0xF#4 ∨ (descOff a.desc).toNat % 4 ≠ 0 ∨ 0x050 ≤ (descOff a.desc).toNat) ↔
      ∃ w off k l, decode (.busacc a) = .ok (.busError w off k l))) ∧
  ∀ (w : Bool) (off : Offset) (k : AccessWidth) (l : BitVec 4) (s : State),
    exec (.busError w off k l) s = .refused (.busError off)

/-- Words written out from 30_encoding.md R83 to R90 and the programs of 95_test_vectors.md decode to the
instructions they stand for. -/
def Obligations.SampleWordsDecode : Prop :=
  decodeTableWord 32 0x1100FF7F = some (.pair 127#8 255#8) ∧
  decodeTableWord 32 0x02000000 = some .construct ∧
  decodeTableWord 32 0x11010000 = some (.illegalCmd 0x11010000#32) ∧
  decodeTableWord 16 0x8004 = some (.wrCtrl 0#32) ∧
  decodeTableWord 16 0x8018 = some (.wrCmd 0#32) ∧
  decodeTableWord 16 0x801C = some (.wrStatus 0#32) ∧
  decodeTableWord 16 0x001C = some .rdStatus ∧
  decodeTableWord 16 0x0050 = some (.busError false 0x050#12 .w32 0xF#4)

/-! ### The step and the agents -/

/-- 20_memory.md R66: where no write is held and the Host steps, its next transaction is taken off the queue and the
instruction it decodes to is executed. -/
def Obligations.StepRunsTheDecodedInstruction : Prop :=
  ∀ (s : State) (q : Transaction) (rest : List Transaction) (i : Instr),
    s.held = none → s.hostQueue = q :: rest → decode q = .ok i →
    (s.schedule = [] → step s = exec i { s with hostQueue := rest }) ∧
    (∀ sched, s.schedule = .host :: sched → step s = exec i { s with hostQueue := rest, schedule := sched })

/-- 20_memory.md R68: a write that arrives in FLUSH is held, the Host waits while it is, and after the Sink's
acceptance the write executes in the READY state the acceptance left. Four points are the model's choice and not the
rule's: that the schedule says whose step it is (log 2); that the wait with no agent left in the schedule, which is the
spec's "stuck" (93_implementation_defined.md I25), is the fault `hostStalled` (log 3); that the Host waits whatever its
next transaction is, a read too, although R68 says that a read in FLUSH completes at once (log 15); and that the hold,
each wait and the execution are steps of the Host of their own (log 24). -/
def Obligations.HeldWriteWaitsForTheSink : Prop :=
  ∀ (s : State) (i : Instr), s.mode = .flush → isWrite i = true →
    exec i s = .next { s with held := some i } ∧
    ∀ t : State, t.mode = .flush → t.held = some i →
      (t.schedule = [] → step t = .fault .hostStalled) ∧
      (∀ r, t.schedule = .host :: r → step t = .next { t with schedule := r }) ∧
      (∀ r, t.schedule = .sink :: .host :: r →
        ∃ u, step t = .next u ∧ u.mode = .ready ∧ u.buf = [] ∧ u.sinkLog = t.sinkLog ++ [t.buf] ∧ u.held = some i ∧
          step u = exec i { u with held := none, schedule := r })

/-- 46_pipeline.md R203, SINK_ACCEPT: enabled only in FLUSH; delivers the block, empties the buffer, counts the block
and returns STATE to READY, all else unchanged. -/
def Obligations.SinkAcceptDeliversThePendingBlock : Prop :=
  ∀ (s : State) (r : List Agent), s.schedule = .sink :: r →
    (s.mode = .flush → step s = .next { s with
      schedule := r, sinkLog := s.sinkLog ++ [s.buf], buf := [], blockCount := s.blockCount + 1#32, mode := .ready }) ∧
    (s.mode ≠ .flush → step s = .next { s with schedule := r })

/-- 70_reset_and_hazards.md R300, HW_RESET: the held write is aborted, the offered block discarded, every state of the
block at its reset value; the Host's remaining program and what was already read or delivered stay. -/
def Obligations.HardwareResetRestoresResetValues : Prop :=
  ∀ (s : State) (r : List Agent), s.schedule = .hwReset :: r →
    step s = .next { State.reset with
      sinkLog := s.sinkLog, reads := s.reads, hostQueue := s.hostQueue, schedule := r }

/-- 47_host_interface.md R252, last sentences: FLUSH is left only by the Sink's acceptance, to READY, or by the
hardware reset, to UNCONF. -/
def Obligations.FlushIsLeftOnlyBySinkOrReset : Prop :=
  ∀ s t : State, step s = .next t → s.mode = .flush → t.mode ≠ .flush →
    (∃ r, s.schedule = .sink :: r ∧ t.mode = .ready) ∨ (∃ r, s.schedule = .hwReset :: r ∧ t.mode = .unconf)

/-- 20_memory.md R60, 47_host_interface.md R255: the window is 4 KiB at a 4 KiB aligned BASE, and a Host access at
BASE + OFF is the access with descriptor OFF. That the access is one transaction more at the end of `hostQueue` is the
model's choice (log 5), and so is that an address outside the window is no transaction of this block (log 10). -/
def Obligations.WindowAddressesAreBasePlusOffset : Prop :=
  Config.base % 4096 = 0 ∧
  (∀ (off : Offset) (v : Word) (s : State),
    memRead (Config.base + off.toNat) s = { s with hostQueue := s.hostQueue ++ [readAt off] } ∧
    memWrite (Config.base + off.toNat) v s = { s with hostQueue := s.hostQueue ++ [writeAt off v] }) ∧
  ∀ (addr : Nat) (v : Word) (s : State), addr < Config.base ∨ Config.base + 4096 ≤ addr →
    memRead addr s = s ∧ memWrite addr v s = s

/-- 20_memory.md R70: a block reaches the Sink as two bytes a sample, low byte first, in order. -/
def Obligations.BlocksAreDeliveredLittleEndian : Prop :=
  ∀ b : List Sample, (blockBytes b).length = 2 * b.length ∧
    ∀ (k : Nat) (p : Sample), b[k]? = some p →
      (blockBytes b)[2 * k]? = some (p.extractLsb' 0 8) ∧ (blockBytes b)[2 * k + 1]? = some (p.extractLsb' 8 8)

/-! ### Register reads -/

/-- 47_host_interface.md R230 to R236: reads of ID, the configuration registers and CMD, by offset and value; nothing
else changes, in any STATE. -/
def Obligations.ConfigurationReadsReturnTheStoredFields : Prop :=
  ∀ s : State,
    (decode (readAt 0x000#12) = .ok .rdId ∧ exec .rdId s = .next { s with reads := s.reads ++ [0x4D464D01#32] }) ∧
    (decode (readAt 0x004#12) = .ok .rdCtrl ∧ exec .rdCtrl s = .next { s with
      reads := s.reads ++ [0#18 ++ s.ctrl.orderSel ++ 0#6 ++ (if s.ctrl.argsel = .fast then 1#1 else 0#1) ++
        (if s.ctrl.smooth = .box then 1#1 else 0#1)] }) ∧
    (decode (readAt 0x008#12) = .ok .rdDecimN ∧
      exec .rdDecimN s = .next { s with reads := s.reads ++ [0#16 ++ s.decimN] }) ∧
    (decode (readAt 0x00C#12) = .ok .rdBoxN ∧
      exec .rdBoxN s = .next { s with reads := s.reads ++ [0#16 ++ s.boxN] }) ∧
    (decode (readAt 0x010#12) = .ok .rdDeemphD ∧
      exec .rdDeemphD s = .next { s with reads := s.reads ++ [s.deemphD] }) ∧
    (decode (readAt 0x014#12) = .ok .rdScale ∧ exec .rdScale s = .next { s with reads := s.reads ++ [s.scale] }) ∧
    (decode (readAt 0x018#12) = .ok .rdCmd ∧ exec .rdCmd s = .next { s with reads := s.reads ++ [0#32] })

/-- 47_host_interface.md R237 to R243: reads of STATUS (its STATE and ERR codes by 10_state.md R29 and
60_exceptions.md R270), ERR_CMD and the counters. -/
def Obligations.StatusAndCounterReadsReturnTheirRegisters : Prop :=
  ∀ s : State,
    (decode (readAt 0x01C#12) = .ok .rdStatus ∧ exec .rdStatus s = .next { s with
      reads := s.reads ++ [0#23 ++ (if s.dec.ready then 1#1 else 0#1) ++
        (match s.err with
          | .none => 0#4 | .cfgOrder => 1#4 | .cfgDecim => 2#4 | .cfgBox => 3#4
          | .alloc => 4#4 | .illegalCmd => 5#4 | .protocol => 6#4 | .outOverflow => 7#4) ++
        0#1 ++
        (match s.mode with | .unconf => 0#3 | .ready => 1#3 | .inblock => 2#3 | .flush => 3#3 | .fault => 7#3)] }) ∧
    (decode (readAt 0x020#12) = .ok .rdErrCmd ∧
      exec .rdErrCmd s = .next { s with reads := s.reads ++ [s.errCmd] }) ∧
    (decode (readAt 0x024#12) = .ok .rdOutCount ∧
      exec .rdOutCount s = .next { s with reads := s.reads ++ [BitVec.ofNat 32 s.buf.length] }) ∧
    (decode (readAt 0x028#12) = .ok .rdPairCount ∧
      exec .rdPairCount s = .next { s with reads := s.reads ++ [s.pairCount] }) ∧
    (decode (readAt 0x02C#12) = .ok .rdPcmCount ∧
      exec .rdPcmCount s = .next { s with reads := s.reads ++ [s.pcmCount] }) ∧
    (decode (readAt 0x030#12) = .ok .rdBlockCount ∧
      exec .rdBlockCount s = .next { s with reads := s.reads ++ [s.blockCount] }) ∧
    (decode (readAt 0x034#12) = .ok .rdDecimCnt ∧
      exec .rdDecimCnt s = .next { s with reads := s.reads ++ [0#16 ++ s.dec.cnt] })

/-- 47_host_interface.md R244 to R249: reads of the debug registers and CAPS. -/
def Obligations.DebugReadsReturnTheUnitOutputs : Prop :=
  ∀ s : State,
    (decode (readAt 0x038#12) = .ok .rdDbgSmoothI ∧ exec .rdDbgSmoothI s = .next { s with
      reads := s.reads ++ [if s.ctrl.smooth = .recursive then s.si.out else s.bi.out] }) ∧
    (decode (readAt 0x03C#12) = .ok .rdDbgSmoothQ ∧ exec .rdDbgSmoothQ s = .next { s with
      reads := s.reads ++ [if s.ctrl.smooth = .recursive then s.sq.out else s.bq.out] }) ∧
    (decode (readAt 0x040#12) = .ok .rdDbgPhase ∧
      exec .rdDbgPhase s = .next { s with reads := s.reads ++ [s.disc.out] }) ∧
    (decode (readAt 0x044#12) = .ok .rdDbgDecimOut ∧
      exec .rdDbgDecimOut s = .next { s with reads := s.reads ++ [s.dec.out] }) ∧
    (decode (readAt 0x048#12) = .ok .rdDbgDeemphOut ∧
      exec .rdDbgDeemphOut s = .next { s with reads := s.reads ++ [s.de.filt.out] }) ∧
    (decode (readAt 0x04C#12) = .ok .rdCaps ∧
      exec .rdCaps s = .next { s with reads := s.reads ++ [0x01002000#32] })

/-- 47_host_interface.md R224, HOST_READ at any offset: a bus error where the offset is misaligned or unmapped, else
REGVAL of the offset, with no other change, in every STATE. -/
def Obligations.ReadsAtEveryOffsetReturnRegvalOrAreRefused : Prop :=
  ∀ (off : Offset) (s : State),
    ((off.toNat % 4 ≠ 0 ∨ 0x050 ≤ off.toNat) →
      ∃ i, decode (readAt off) = .ok i ∧ exec i s = .refused (.busError off)) ∧
    (off.toNat % 4 = 0 → off.toNat < 0x050 →
      ∃ i v, decode (readAt off) = .ok i ∧ regVal off s = some v ∧ exec i s = .next { s with reads := s.reads ++ [v] })

/-! ### Writes -/

/-- 47_host_interface.md R216 to R220, R250, R251: each configuration write, in each STATE: stored in UNCONF, PROTOCOL
with 0xFF000000 | offset in READY and INBLOCK, ignored in FAULT, held in FLUSH; nothing else changes. -/
def Obligations.ConfigurationWritesByState : Prop :=
  ∀ (v : Word) (s : State),
    (s.mode = .unconf →
      exec (.wrCtrl v) s = .next { s with ctrl := {
        smooth := if v.getLsbD 0 then .box else .recursive
        argsel := if v.getLsbD 1 then .fast else .exact
        orderSel := v.extractLsb' 8 6 } } ∧
      exec (.wrDecimN v) s = .next { s with decimN := v.extractLsb' 0 16 } ∧
      exec (.wrBoxN v) s = .next { s with boxN := v.extractLsb' 0 16 } ∧
      exec (.wrDeemphD v) s = .next { s with deemphD := v } ∧
      exec (.wrScale v) s = .next { s with scale := v }) ∧
    (s.mode = .ready ∨ s.mode = .inblock →
      exec (.wrCtrl v) s = .next { s with mode := .fault, err := .protocol, errCmd := 0xFF000004#32 } ∧
      exec (.wrDecimN v) s = .next { s with mode := .fault, err := .protocol, errCmd := 0xFF000008#32 } ∧
      exec (.wrBoxN v) s = .next { s with mode := .fault, err := .protocol, errCmd := 0xFF00000C#32 } ∧
      exec (.wrDeemphD v) s = .next { s with mode := .fault, err := .protocol, errCmd := 0xFF000010#32 } ∧
      exec (.wrScale v) s = .next { s with mode := .fault, err := .protocol, errCmd := 0xFF000014#32 }) ∧
    (s.mode = .fault →
      exec (.wrCtrl v) s = .next s ∧ exec (.wrDecimN v) s = .next s ∧ exec (.wrBoxN v) s = .next s ∧
      exec (.wrDeemphD v) s = .next s ∧ exec (.wrScale v) s = .next s) ∧
    (s.mode = .flush →
      exec (.wrCtrl v) s = .next { s with held := some (.wrCtrl v) } ∧
      exec (.wrDecimN v) s = .next { s with held := some (.wrDecimN v) } ∧
      exec (.wrBoxN v) s = .next { s with held := some (.wrBoxN v) } ∧
      exec (.wrDeemphD v) s = .next { s with held := some (.wrDeemphD v) } ∧
      exec (.wrScale v) s = .next { s with held := some (.wrScale v) })

/-- 30_encoding.md R92: reserved fields of CTRL, DECIM_N and BOX_N ignore what is written and read 0; DEEMPH_D and
SCALE keep all 32 bits. -/
def Obligations.WrittenConfigurationReadsBackWithoutReservedBits : Prop :=
  ∀ (v : Word) (s : State), s.mode = .unconf →
    (∃ t, exec (.wrCtrl v) s = .next t ∧
      exec .rdCtrl t = .next { t with reads := t.reads ++ [v &&& 0x00003F03#32] }) ∧
    (∃ t, exec (.wrDecimN v) s = .next t ∧
      exec .rdDecimN t = .next { t with reads := t.reads ++ [v &&& 0x0000FFFF#32] }) ∧
    (∃ t, exec (.wrBoxN v) s = .next t ∧
      exec .rdBoxN t = .next { t with reads := t.reads ++ [v &&& 0x0000FFFF#32] }) ∧
    (∃ t, exec (.wrDeemphD v) s = .next t ∧ exec .rdDeemphD t = .next { t with reads := t.reads ++ [v] }) ∧
    (∃ t, exec (.wrScale v) s = .next t ∧ exec .rdScale t = .next { t with reads := t.reads ++ [v] })

/-- 20_memory.md R64, 47_host_interface.md R222: a write to each of the 14 read-only registers, decoded at its offset,
is refused in every STATE. -/
def Obligations.ReadOnlyWritesAreRefused : Prop :=
  ∀ (v : Word) (s : State),
    (decode (writeAt 0x000#12 v) = .ok (.wrId v) ∧ exec (.wrId v) s = .refused (.readOnlyWrite 0x000#12)) ∧
    (decode (writeAt 0x01C#12 v) = .ok (.wrStatus v) ∧ exec (.wrStatus v) s = .refused (.readOnlyWrite 0x01C#12)) ∧
    (decode (writeAt 0x020#12 v) = .ok (.wrErrCmd v) ∧ exec (.wrErrCmd v) s = .refused (.readOnlyWrite 0x020#12)) ∧
    (decode (writeAt 0x024#12 v) = .ok (.wrOutCount v) ∧
      exec (.wrOutCount v) s = .refused (.readOnlyWrite 0x024#12)) ∧
    (decode (writeAt 0x028#12 v) = .ok (.wrPairCount v) ∧
      exec (.wrPairCount v) s = .refused (.readOnlyWrite 0x028#12)) ∧
    (decode (writeAt 0x02C#12 v) = .ok (.wrPcmCount v) ∧
      exec (.wrPcmCount v) s = .refused (.readOnlyWrite 0x02C#12)) ∧
    (decode (writeAt 0x030#12 v) = .ok (.wrBlockCount v) ∧
      exec (.wrBlockCount v) s = .refused (.readOnlyWrite 0x030#12)) ∧
    (decode (writeAt 0x034#12 v) = .ok (.wrDecimCnt v) ∧
      exec (.wrDecimCnt v) s = .refused (.readOnlyWrite 0x034#12)) ∧
    (decode (writeAt 0x038#12 v) = .ok (.wrDbgSmoothI v) ∧
      exec (.wrDbgSmoothI v) s = .refused (.readOnlyWrite 0x038#12)) ∧
    (decode (writeAt 0x03C#12 v) = .ok (.wrDbgSmoothQ v) ∧
      exec (.wrDbgSmoothQ v) s = .refused (.readOnlyWrite 0x03C#12)) ∧
    (decode (writeAt 0x040#12 v) = .ok (.wrDbgPhase v) ∧
      exec (.wrDbgPhase v) s = .refused (.readOnlyWrite 0x040#12)) ∧
    (decode (writeAt 0x044#12 v) = .ok (.wrDbgDecimOut v) ∧
      exec (.wrDbgDecimOut v) s = .refused (.readOnlyWrite 0x044#12)) ∧
    (decode (writeAt 0x048#12 v) = .ok (.wrDbgDeemphOut v) ∧
      exec (.wrDbgDeemphOut v) s = .refused (.readOnlyWrite 0x048#12)) ∧
    (decode (writeAt 0x04C#12 v) = .ok (.wrCaps v) ∧ exec (.wrCaps v) s = .refused (.readOnlyWrite 0x04C#12))

/-! ### Commands -/

/-- 47_host_interface.md R210: NOP changes nothing in UNCONF, READY, INBLOCK and FAULT, and is held in FLUSH. -/
def Obligations.NopChangesNothing : Prop :=
  ∀ s : State,
    (s.mode ≠ .flush → exec .nop s = .next s) ∧
    (s.mode = .flush → exec .nop s = .next { s with held := some .nop })

/-- 10_state.md R55, column "after reset": the value of every piece of state. -/
def Obligations.ResetStateHoldsTheTabulatedValues : Prop :=
  State.reset.ctrl.smooth = .recursive ∧ State.reset.ctrl.argsel = .exact ∧
  State.reset.ctrl.orderSel ∈ [12#6, 16#6, 20#6, 24#6, 28#6, 32#6] ∧
  State.reset.decimN = 20#16 ∧ State.reset.boxN = 1#16 ∧
  State.reset.deemphD = 0x00000000#32 ∧ State.reset.scale = 0x461C4000#32 ∧
  State.reset.mode = .unconf ∧ State.reset.err = .none ∧ State.reset.errCmd = 0#32 ∧
  State.reset.buf = [] ∧ State.reset.pairCount = 0#32 ∧ State.reset.pcmCount = 0#32 ∧
  State.reset.blockCount = 0#32 ∧
  State.reset.si = ⟨Vector.replicate 8 0#32, Vector.replicate 8 0#32, 0#32⟩ ∧
  State.reset.sq = ⟨Vector.replicate 8 0#32, Vector.replicate 8 0#32, 0#32⟩ ∧
  State.reset.bi = ⟨0#32, Vector.replicate 256 0#32, 0, 0#32⟩ ∧
  State.reset.bq = ⟨0#32, Vector.replicate 256 0#32, 0, 0#32⟩ ∧
  State.reset.disc = ⟨0x3F800000#32, 0#32, 0#32⟩ ∧
  State.reset.dec = ⟨0#32, 0#16, false, 0#32⟩ ∧
  State.reset.de = ⟨⟨Vector.replicate 2 0#32, Vector.replicate 2 0#32, 0#32⟩, 0x3F800000#32, 0x80000000#32⟩ ∧
  State.reset.held = none

/-- 47_host_interface.md R211: RESET sets every piece of the block's state to its value after reset, from every STATE
in which it executes, FAULT included; it is held in FLUSH. -/
def Obligations.ResetCommandRestoresResetValues : Prop :=
  ∀ s : State,
    (s.mode ≠ .flush → exec .reset s = .next { State.reset with
      held := s.held, sinkLog := s.sinkLog, reads := s.reads, hostQueue := s.hostQueue, schedule := s.schedule }) ∧
    (s.mode = .flush → exec .reset s = .next { s with held := some .reset })

/-- 47_host_interface.md R212: CONSTRUCT in UNCONF with a configuration that passes the four checks initialises every
unit and counter and makes STATE READY; the configuration registers and all else stay. -/
def Obligations.ConstructInitialisesEveryUnit : Prop :=
  ∀ s : State, s.mode = .unconf →
    s.ctrl.orderSel ∈ [12#6, 16#6, 20#6, 24#6, 28#6, 32#6] → s.decimN ≠ 0#16 →
    (s.ctrl.smooth = .box → s.boxN ≠ 0#16 ∧ s.boxN.toNat ≤ 256) →
    exec .construct s = .next { s with
      si := ⟨Vector.replicate 8 0#32, Vector.replicate 8 0#32, 0#32⟩
      sq := ⟨Vector.replicate 8 0#32, Vector.replicate 8 0#32, 0#32⟩
      bi := ⟨0#32, Vector.replicate 256 0#32, 0, 0#32⟩
      bq := ⟨0#32, Vector.replicate 256 0#32, 0, 0#32⟩
      disc := ⟨0x3F800000#32, 0#32, 0#32⟩
      dec := ⟨0#32, 0#16, false, 0#32⟩
      de := ⟨⟨Vector.replicate 2 0#32, Vector.replicate 2 0#32, 0#32⟩, fsub 0x3F800000#32 s.deemphD, fneg s.deemphD⟩
      buf := [], pairCount := 0#32, pcmCount := 0#32, blockCount := 0#32
      mode := .ready }

/-- 60_exceptions.md R272: the four CONSTRUCT checks in their order; the first that fails decides the code, STATE
becomes FAULT and nothing is initialised. BOX_N is examined only when CTRL.SMOOTH = 1. -/
def Obligations.ConstructChecksFailInOrder : Prop :=
  ∀ s : State, s.mode = .unconf →
    (s.ctrl.orderSel ∉ [12#6, 16#6, 20#6, 24#6, 28#6, 32#6] →
      exec .construct s = .next { s with mode := .fault, err := .cfgOrder, errCmd := 0x02000000#32 }) ∧
    (s.ctrl.orderSel ∈ [12#6, 16#6, 20#6, 24#6, 28#6, 32#6] → s.decimN = 0#16 →
      exec .construct s = .next { s with mode := .fault, err := .cfgDecim, errCmd := 0x02000000#32 }) ∧
    (s.ctrl.orderSel ∈ [12#6, 16#6, 20#6, 24#6, 28#6, 32#6] → s.decimN ≠ 0#16 → s.ctrl.smooth = .box →
      s.boxN = 0#16 →
      exec .construct s = .next { s with mode := .fault, err := .cfgBox, errCmd := 0x02000000#32 }) ∧
    (s.ctrl.orderSel ∈ [12#6, 16#6, 20#6, 24#6, 28#6, 32#6] → s.decimN ≠ 0#16 → s.ctrl.smooth = .box →
      256 < s.boxN.toNat →
      exec .construct s = .next { s with mode := .fault, err := .alloc, errCmd := 0x02000000#32 })

/-- 47_host_interface.md R213, R215: BLOCK_BEGIN in READY opens the block; BLOCK_END in INBLOCK makes STATE FLUSH, so
that the Sink port offers the buffer; nothing else changes. In the two others of UNCONF, READY and INBLOCK each is a
PROTOCOL fault with its word, in FAULT it is ignored (R250), and in FLUSH it is held (20_memory.md R68). -/
def Obligations.BlockCommandsMoveTheController : Prop :=
  ∀ s : State,
    (s.mode = .ready → exec .blockBegin s = .next { s with mode := .inblock }) ∧
    (s.mode = .unconf ∨ s.mode = .inblock →
      exec .blockBegin s = .next { s with mode := .fault, err := .protocol, errCmd := 0x10000000#32 }) ∧
    (s.mode = .inblock →
      exec .blockEnd s = .next { s with mode := .flush } ∧ sinkOffer { s with mode := .flush } = some s.buf) ∧
    (s.mode = .unconf ∨ s.mode = .ready →
      exec .blockEnd s = .next { s with mode := .fault, err := .protocol, errCmd := 0x12000000#32 }) ∧
    (s.mode = .fault → exec .blockBegin s = .next s ∧ exec .blockEnd s = .next s) ∧
    (s.mode = .flush →
      exec .blockBegin s = .next { s with held := some .blockBegin } ∧
      exec .blockEnd s = .next { s with held := some .blockEnd })

/-- 46_pipeline.md R190, R192, R195 and 47_host_interface.md R214: PAIR in INBLOCK runs the smoothers, the
discriminator and the decimator in this order, counts the pair, and on a ready cycle runs the de-emphasis filter and
appends one sample, or raises OUT_OVERFLOW on a full buffer after those updates. The last lines are its frame. -/
def Obligations.PairRunsTheUnitsInOrder : Prop :=
  ∀ (ib qb : Byte) (s : State), s.mode = .inblock →
    ∃ t, exec (.pair ib qb) s = .next t ∧
      (s.ctrl.smooth = .recursive →
        t.si = smootherIn (Config.coef s.ctrl.orderSel) s.si (f32 ib.toNat) ∧
        t.sq = smootherIn (Config.coef s.ctrl.orderSel) s.sq (f32 qb.toNat) ∧ t.bi = s.bi ∧ t.bq = s.bq ∧
        t.disc = discIn .after s.ctrl.argsel s.disc t.si.out t.sq.out) ∧
      (s.ctrl.smooth = .box →
        t.bi = boxIn s.boxN.toNat s.bi (f32 ib.toNat) ∧ t.bq = boxIn s.boxN.toNat s.bq (f32 qb.toNat) ∧
        t.si = s.si ∧ t.sq = s.sq ∧ t.disc = discIn .after s.ctrl.argsel s.disc t.bi.out t.bq.out) ∧
      t.dec = decIn s.decimN s.dec t.disc.out ∧ t.pairCount = s.pairCount + 1#32 ∧
      (t.dec.ready = false →
        t.de = s.de ∧ t.buf = s.buf ∧ t.pcmCount = s.pcmCount ∧ t.mode = .inblock ∧ t.err = s.err ∧
        t.errCmd = s.errCmd) ∧
      (t.dec.ready = true → s.buf.length ≠ 8192 →
        t.de = deemphIn s.de t.dec.out ∧ t.buf = s.buf ++ [toPcm (fmul t.de.filt.out s.scale)] ∧
        t.pcmCount = s.pcmCount + 1#32 ∧ t.mode = .inblock ∧ t.err = s.err ∧ t.errCmd = s.errCmd) ∧
      (t.dec.ready = true → s.buf.length = 8192 →
        t.de = deemphIn s.de t.dec.out ∧ t.buf = s.buf ∧ t.pcmCount = s.pcmCount ∧ t.mode = .fault ∧
        t.err = .outOverflow ∧ t.errCmd = 0x11#8 ++ 0x00#8 ++ qb ++ ib) ∧
      t.ctrl = s.ctrl ∧ t.decimN = s.decimN ∧ t.boxN = s.boxN ∧ t.deemphD = s.deemphD ∧ t.scale = s.scale ∧
      t.blockCount = s.blockCount ∧ t.held = s.held ∧ t.sinkLog = s.sinkLog ∧ t.reads = s.reads ∧
      t.hostQueue = s.hostQueue ∧ t.schedule = s.schedule

/-- 60_exceptions.md R273, 30_encoding.md R91: an illegal command word raises ILLEGAL_CMD with the word in ERR_CMD,
whatever STATE is but FAULT, where it is ignored; in FLUSH it is held first. -/
def Obligations.IllegalCommandWordsFault : Prop :=
  ∀ (w : Word) (s : State),
    (s.mode = .unconf ∨ s.mode = .ready ∨ s.mode = .inblock →
      exec (.illegalCmd w) s = .next { s with mode := .fault, err := .illegalCmd, errCmd := w }) ∧
    (s.mode = .fault → exec (.illegalCmd w) s = .next s) ∧
    (s.mode = .flush → exec (.illegalCmd w) s = .next { s with held := some (.illegalCmd w) })

/-- 47_host_interface.md R221, R225: WR CMD executes the command its data word decodes to; in FLUSH it is held. -/
def Obligations.WrCmdExecutesItsCommandWord : Prop :=
  ∀ (v : Word) (s : State),
    (s.mode ≠ .flush → ∃ t, exec (.wrCmd v) s = .next t ∧ exec (decodeCommand v).instr s = .next t) ∧
    (s.mode = .flush → exec (.wrCmd v) s = .next { s with held := some (.wrCmd v) })

/-! ### Faults and legality -/

/-- 60_exceptions.md R274: outside FAULT, PROTOCOL is raised by exactly the transactions of this list (a WR CMD being
the command its word decodes to, by `WrCmdExecutesItsCommandWord`). -/
def Obligations.ProtocolIsRaisedByExactlyTheseTransactions : Prop :=
  ∀ (i : Instr) (s t : State), (∀ v, i ≠ .wrCmd v) → s.mode ≠ .fault → exec i s = .next t →
    ((t.mode = .fault ∧ t.err = .protocol) ↔
      (i = .construct ∧ (s.mode = .ready ∨ s.mode = .inblock)) ∨
      (i = .blockBegin ∧ (s.mode = .unconf ∨ s.mode = .inblock)) ∨
      ((∃ ib qb, i = .pair ib qb) ∧ (s.mode = .unconf ∨ s.mode = .ready)) ∨
      (i = .blockEnd ∧ (s.mode = .unconf ∨ s.mode = .ready)) ∨
      ((∃ v, i = .wrCtrl v ∨ i = .wrDecimN v ∨ i = .wrBoxN v ∨ i = .wrDeemphD v ∨ i = .wrScale v) ∧
        (s.mode = .ready ∨ s.mode = .inblock)))

/-- 60_exceptions.md R276: a transaction that enters FAULT records a code and its own word, and changes nothing else but
STATE, ERR and ERR_CMD; only a PAIR that overflows, whose other updates precede the fault, changes more. -/
def Obligations.FaultEntryChangesOnlyTheFaultRecord : Prop :=
  ∀ (i : Instr) (s t : State), (∀ v, i ≠ .wrCmd v) → s.mode ≠ .fault → exec i s = .next t → t.mode = .fault →
    t.err ≠ .none ∧ t.errCmd = faultWord i ∧
    ((∀ ib qb, i ≠ .pair ib qb) → t = { s with mode := .fault, err := t.err, errCmd := t.errCmd }) ∧
    (t.err ≠ .outOverflow → t = { s with mode := .fault, err := t.err, errCmd := t.errCmd })

/-- 47_host_interface.md R250: in FAULT a configuration write and every command but the exact RESET word is accepted
and ignored, nothing changing, and a write to a read-only or unmapped offset is still refused. -/
def Obligations.FaultIgnoresEveryWriteButReset : Prop :=
  ∀ (i : Instr) (s : State), s.mode = .fault →
    (isWrite i = true → i ≠ .reset → i ≠ .wrCmd 0x01000000#32 → exec i s = .next s) ∧
    (isWrite i = false → isRead i = false → ∃ r, exec i s = .refused r)

/-- 47_host_interface.md R252: the next STATE of every transaction that executes, by the STATE it executes in. -/
def Obligations.NextStatesAreThoseOfTheLegalityTable : Prop :=
  ∀ (i : Instr) (s t : State), s.mode ≠ .flush → exec i s = .next t →
    (s.mode ≠ .fault → t.mode ∈ nextModes s.mode i) ∧
    (s.mode = .fault → t.mode = .fault ∨ (t.mode = .unconf ∧ (i = .reset ∨ i = .wrCmd 0x01000000#32)))

/-- 10_state.md R53: dec_ready after a transaction: a PAIR in INBLOCK sets it exactly when its input completes the
window, a CONSTRUCT that succeeds and a RESET clear it, and nothing else changes it. -/
def Obligations.ReadyFlagIsWrittenOnlyByThePairStep : Prop :=
  ∀ (i : Instr) (s t : State), (∀ v, i ≠ .wrCmd v) → exec i s = .next t →
    (s.mode = .inblock → (∃ ib qb, i = .pair ib qb) → t.dec.ready = decide (s.dec.cnt + 1#16 = s.decimN)) ∧
    (i = .reset → s.mode ≠ .flush → t.dec.ready = false) ∧
    (i = .construct → t.mode = .ready → s.mode = .unconf → t.dec.ready = false) ∧
    (¬ (s.mode = .inblock ∧ ∃ ib qb, i = .pair ib qb) → ¬ (i = .reset ∧ s.mode ≠ .flush) →
      ¬ (i = .construct ∧ t.mode = .ready ∧ s.mode = .unconf) → t.dec.ready = s.dec.ready)

/-! ### Numerics -/

/-- 40_numerics.md R101, and R102's fourth bullet: a rounding is finite exactly where the exact value is below the
midpoint of the largest finite binary32 and 2^128; a finite one is at least as near to the exact value as any other
finite binary32 of its sign, and on a tie its last bit is 0; else it is the infinity. Values are in units of 2^-149. -/
def Obligations.RoundingIsToNearestTiesToEven : Prop :=
  ∀ num den : Nat, 0 < den →
    (isFinite (withSign false (roundBits num den)) = true ↔ num < (2 ^ 25 - 1) * 2 ^ 252 * den) ∧
    (isFinite (withSign false (roundBits num den)) = false → withSign false (roundBits num den) = 0x7F800000#32) ∧
    (isFinite (withSign false (roundBits num den)) = true → ∀ f : F32, isFinite f = true → fsign f = false →
      ((fmag (withSign false (roundBits num den)) * den : Int) - num).natAbs ≤ ((fmag f * den : Int) - num).natAbs ∧
      (((fmag (withSign false (roundBits num den)) * den : Int) - num).natAbs = ((fmag f * den : Int) - num).natAbs →
        f ≠ withSign false (roundBits num den) → (withSign false (roundBits num den)).getLsbD 0 = false))

/-- 40_numerics.md R102: on finite operands each operation is its exact result, rounded once; the invalid operations
give NaN; a finite nonzero number divided by a zero is an infinity; infinities otherwise behave as limits. -/
def Obligations.ArithmeticIsExactThenRoundedOnce : Prop :=
  ∀ a b : F32,
    (isFinite a = true → isFinite b = true → fval a + fval b ≠ 0 →
      fadd a b = withSign (decide (fval a + fval b < 0)) (roundBits (fval a + fval b).natAbs 1)) ∧
    (isFinite a = true → isFinite b = true → fval a - fval b ≠ 0 →
      fsub a b = withSign (decide (fval a - fval b < 0)) (roundBits (fval a - fval b).natAbs 1)) ∧
    (isFinite a = true → isFinite b = true →
      fmul a b = withSign (fsign a != fsign b) (roundBits (fmag a * fmag b) (2 ^ 149))) ∧
    (isFinite a = true → isFinite b = true → isZero b = false →
      fdiv a b = withSign (fsign a != fsign b) (roundBits (fmag a * 2 ^ 149) (fmag b))) ∧
    (isInf a = true → isInf b = true →
      (fsign a ≠ fsign b → isNaN (fadd a b) = true) ∧ (fsign a = fsign b → isNaN (fsub a b) = true) ∧
      (fsign a = fsign b → fadd a b = a) ∧ (fsign a ≠ fsign b → fsub a b = a) ∧
      isNaN (fdiv a b) = true ∧ fmul a b = fInf (fsign a != fsign b)) ∧
    (isInf a = true → isFinite b = true →
      fadd a b = a ∧ fadd b a = a ∧ fsub a b = a ∧ fsub b a = fneg a ∧
      (isZero b = true → isNaN (fmul a b) = true ∧ isNaN (fmul b a) = true) ∧
      (isZero b = false → fmul a b = fInf (fsign a != fsign b) ∧ fmul b a = fInf (fsign a != fsign b)) ∧
      fdiv a b = fInf (fsign a != fsign b) ∧ fdiv b a = withSign (fsign a != fsign b) 0) ∧
    (isZero a = true → isZero b = true → isNaN (fdiv a b) = true) ∧
    (isFinite a = true → isZero a = false → isZero b = true → fdiv a b = fInf (fsign a != fsign b))

/-- 40_numerics.md R103: the signs of zero. -/
def Obligations.SignedZeroRules : Prop :=
  (∀ a b : F32, isNaN (fmul a b) = false → fsign (fmul a b) = (fsign a != fsign b)) ∧
  (∀ a b : F32, isNaN (fdiv a b) = false → fsign (fdiv a b) = (fsign a != fsign b)) ∧
  (∀ a b : F32, isFinite a = true → isFinite b = true → fsign a ≠ fsign b → fval a + fval b = 0 →
    fadd a b = 0x00000000#32) ∧
  (∀ a : F32, isFinite a = true → fsub a a = 0x00000000#32) ∧
  fadd 0x80000000#32 0x80000000#32 = 0x80000000#32 ∧
  fsub 0x80000000#32 0x00000000#32 = 0x80000000#32

/-- 40_numerics.md R105: a NaN operand gives a NaN, and every NaN an operation returns is quiet, whichever the draw. -/
def Obligations.NanResultsAreQuiet : Prop :=
  ∀ a b : F32,
    (isNaN a = true ∨ isNaN b = true →
      isNaN (fadd a b) = true ∧ isNaN (fsub a b) = true ∧ isNaN (fmul a b) = true ∧ isNaN (fdiv a b) = true) ∧
    (isNaN (fadd a b) = true → isQuietNaN (fadd a b) = true) ∧
    (isNaN (fsub a b) = true → isQuietNaN (fsub a b) = true) ∧
    (isNaN (fmul a b) = true → isQuietNaN (fmul a b) = true) ∧
    (isNaN (fdiv a b) = true → isQuietNaN (fdiv a b) = true)

/-- 40_numerics.md R106: `f32(k)` is exact for |k| ≤ 2^24, and `f32(0)` is +0.0. -/
def Obligations.IntegerConversionIsExact : Prop :=
  (∀ k : Int, -(2 ^ 24) ≤ k → k ≤ 2 ^ 24 → isFinite (f32 k) = true ∧ fval (f32 k) = k * 2 ^ 149) ∧
  f32 0 = 0x00000000#32

/-- 40_numerics.md R107: `fneg` inverts bit 31 and `fabs` clears it, on every pattern, NaN patterns too. -/
def Obligations.NegationAndMagnitudeAreBitOperations : Prop :=
  ∀ (a : F32) (i : Nat), i < 32 →
    (fneg a).getLsbD i = (if i = 31 then !a.getLsbD i else a.getLsbD i) ∧
    (fabs a).getLsbD i = (if i = 31 then false else a.getLsbD i)

/-- 40_numerics.md R108: `flt` and `fge` are the IEEE 754 order, both false on a NaN, with -0.0 equal to +0.0; on
non-negative patterns the order is that of the patterns. -/
def Obligations.ComparisonsAreTheIeeeOrder : Prop :=
  (∀ a b : F32, isNaN a = true ∨ isNaN b = true → flt a b = false ∧ fge a b = false) ∧
  (∀ a b : F32, isNaN a = false → isNaN b = false → flt a b = !fge a b) ∧
  (∀ a b : F32, isNaN a = false → isNaN b = false → fsign a = false → fsign b = false →
    flt a b = decide (a.toNat < b.toNat)) ∧
  (∀ a b : F32, isNaN a = false → isNaN b = false → flt (fneg a) (fneg b) = flt b a) ∧
  (∀ a b : F32, isNaN a = false → isNaN b = false → fsign a = true → fsign b = false →
    flt a b = !(isZero a && isZero b)) ∧
  (∀ a b : F32, isNaN a = false → isNaN b = false → fsign a = false → fsign b = true → flt a b = false) ∧
  fge 0x80000000#32 0x00000000#32 = true ∧ flt 0x80000000#32 0x00000000#32 = false

/-- 46_pipeline.md R194, toPCM: 0 for NaN and for values outside [-2^31, 2^31); for the others the integer part toward
zero, modulo 2^16. Values are in units of 2^-149. -/
def Obligations.PcmConversionTruncatesAndWraps : Prop :=
  ∀ w : F32,
    (isNaN w = true ∨ 2 ^ 180 ≤ fval w ∨ fval w < -(2 ^ 180) → toPcm w = 0#16) ∧
    (isNaN w = false → -(2 ^ 180) ≤ fval w → fval w < 2 ^ 180 →
      toPcm w = BitVec.ofInt 16 ((fval w).tdiv (2 ^ 149)))

/-! ### Units -/

/-- 41_recursive_filter.md R120, IIR_IN: both histories shift by one, most recent first; the output is the numerator
sum less the denominator sum, each in ascending index order from +0.0, divided by `a[0]`; it is put at `y[0]`. -/
def Obligations.IirInFollowsTheRecursion : Prop :=
  ∀ (n : Nat) (hn : 0 < n) (b a : Vector F32 n) (f : Iir n) (v : F32),
    (∀ i (hi : i < n), (iirIn hn b a f v).x[i] = if h : i = 0 then v else f.x[i - 1]) ∧
    (∀ i (hi : i < n), (iirIn hn b a f v).y[i] = if h : i = 0 then (iirIn hn b a f v).out else f.y[i - 1]) ∧
    (iirIn hn b a f v).out =
      fdiv
        (fsub ((List.finRange n).foldl (fun acc i => fadd acc (fmul b[i] (iirIn hn b a f v).x[i])) 0x00000000#32)
          ((List.finRange n).tail.foldl (fun acc i => fadd acc (fmul a[i] (iirIn hn b a f v).y[i])) 0x00000000#32))
        a[0]

/-- 42_box_filter.md R135, R136: after inputs `vs`, the sum, the index and every used cell of the delay line hold what
the rule's invariant says, and the output is the difference of the running sums n apart, divided by n. -/
def Obligations.BoxDelayLineHoldsTheRunningSums : Prop :=
  ∀ (n : Nat) (vs : List F32), 1 ≤ n → n ≤ 256 →
    (boxRun n vs).sum = runSum vs vs.length ∧ (boxRun n vs).idx.val = vs.length % n ∧
    (∀ j, j < n → (boxRun n vs).delay[((boxRun n vs).idx.val + j) % n]? = some (runSum vs (vs.length + 1 + j - n))) ∧
    (vs ≠ [] → (boxRun n vs).out = fdiv (fsub (runSum vs vs.length) (runSum vs (vs.length - n))) (f32 n))

/-- 44_decimator.md R171: call t since CONSTRUCT is a ready cycle exactly when t mod N = 0; dec_cnt is t mod N; the
value emitted at call kN averages the last N calls and no others. -/
def Obligations.DecimatorEmitsOncePerWindow : Prop :=
  ∀ (n : BitVec 16) (vs : List F32), n ≠ 0#16 →
    (decRun n vs).cnt.toNat = vs.length % n.toNat ∧
    (vs ≠ [] → ((decRun n vs).ready = true ↔ vs.length % n.toNat = 0)) ∧
    (∀ pre win, vs = pre ++ win → pre.length % n.toNat = 0 → win.length = n.toNat →
      (decRun n vs).out = fdiv (win.foldl fadd 0x00000000#32) (f32 n.toNat))

/-- 43_discriminator.md R150, R152, R153: DISC_IN maps its two inputs by `(x - 127) / 127`, forms the product of the
result with the conjugate of the previous one, takes the argument CTRL.ARGSEL selects, and keeps the new sample; with
NORM_POINT = BEFORE it applies no map. -/
def Obligations.DiscriminatorStepFollowsItsFormulas : Prop :=
  ∀ (sel : ArgSel) (d : Disc) (a b : F32),
    (discIn .after sel d a b).prevRe = fdiv (fsub a 0x42FE0000#32) 0x42FE0000#32 ∧
    (discIn .after sel d a b).prevIm = fdiv (fsub b 0x42FE0000#32) 0x42FE0000#32 ∧
    (discIn .before sel d a b).prevRe = a ∧ (discIn .before sel d a b).prevIm = b ∧
    ∀ np : NormPoint,
      (discIn np sel d a b).out =
        (match sel with
          | .exact => argExact
          | .fast => argFast)
          (fsub (fmul d.prevRe (discIn np sel d a b).prevIm) (fmul d.prevIm (discIn np sel d a b).prevRe))
          (fadd (fmul d.prevRe (discIn np sel d a b).prevRe) (fmul d.prevIm (discIn np sel d a b).prevIm))

/-- 43_discriminator.md R158 and the corner cases of R159 item 3 that hold of every operand: the formula in the right
half-plane (x = -0.0 with it) and in the left, the sign by `y < 0`; +pi/2 at the origin; NaN on an infinite or NaN
operand. -/
def Obligations.FastArgumentFollowsItsFormula : Prop :=
  (∀ y x : F32, isNaN x = false → fsign x = false ∨ isZero x = true →
    argFast y x =
      (if isNaN y = false ∧ isZero y = false ∧ fsign y = true then fneg else id)
        (fsub 0x3F490FDB#32 (fmul 0x3F490FDB#32
          (fdiv (fsub x (fadd (fabs y) 0x2EDBE6FF#32)) (fadd x (fadd (fabs y) 0x2EDBE6FF#32)))))) ∧
  (∀ y x : F32, isNaN x = true ∨ (fsign x = true ∧ isZero x = false) →
    argFast y x =
      (if isNaN y = false ∧ isZero y = false ∧ fsign y = true then fneg else id)
        (fsub 0x4016CBE4#32 (fmul 0x3F490FDB#32
          (fdiv (fadd x (fadd (fabs y) 0x2EDBE6FF#32)) (fsub (fadd (fabs y) 0x2EDBE6FF#32) x))))) ∧
  (∀ y x : F32, isZero y = true → isZero x = true → argFast y x = 0x3FC90FDB#32) ∧
  (∀ y x : F32, isFinite y = false ∨ isFinite x = false → isNaN (argFast y x) = true)

/-- 43_discriminator.md R155 with R157: the same sample twice gives a second phase of +0.0 under ARG_EXACT. The rule's
text leaves out that the product of the two parts must not overflow; it stands here as a hypothesis (log 19). -/
def Obligations.IdenticalSamplesGiveZeroPhase : Prop :=
  ∀ (np : NormPoint) (d : Disc) (a b : F32),
    isFinite (discIn np .exact d a b).prevRe = true → isFinite (discIn np .exact d a b).prevIm = true →
    isFinite (fmul (discIn np .exact d a b).prevRe (discIn np .exact d a b).prevIm) = true →
    (discIn np .exact (discIn np .exact d a b) a b).out = 0x00000000#32

/-- 43_discriminator.md R154: with `prev = (1.0, +0.0)` the product is the current sample bit for bit, with the two
signed-zero exceptions. -/
def Obligations.FirstCallProductIsTheSample : Prop :=
  ∀ cr ci : F32, isFinite cr = true → isFinite ci = true →
    cprod 0x3F800000#32 0x00000000#32 cr ci = (fadd cr (fmul 0x00000000#32 ci), fsub ci (fmul 0x00000000#32 cr)) ∧
    cprod 0x3F800000#32 0x00000000#32 cr ci =
      (if cr = 0x80000000#32 ∧ fsign ci = false then 0x00000000#32 else cr,
       if ci = 0x80000000#32 ∧ fsign cr = true then 0x00000000#32 else ci)

/-- 43_discriminator.md R157 items 3 and 4: the special values and the diagonals of ARG_EXACT. -/
def Obligations.ArgExactSpecialValues : Prop :=
  ∀ y x : F32, isNaN y = false → isNaN x = false →
    (isZero y = true → fsign x = false → argExact y x = y) ∧
    (isZero y = true → fsign x = true → argExact y x = if fsign y then 0xC0490FDB#32 else 0x40490FDB#32) ∧
    (isZero y = false → isZero x = true → argExact y x = if fsign y then 0xBFC90FDB#32 else 0x3FC90FDB#32) ∧
    (isZero y = false → isFinite y = true → isInf x = true → fsign x = false →
      argExact y x = if fsign y then 0x80000000#32 else 0x00000000#32) ∧
    (isZero y = false → isFinite y = true → isInf x = true → fsign x = true →
      argExact y x = if fsign y then 0xC0490FDB#32 else 0x40490FDB#32) ∧
    (isInf y = true → isFinite x = true → argExact y x = if fsign y then 0xBFC90FDB#32 else 0x3FC90FDB#32) ∧
    (isZero y = false → fmag y = fmag x → fsign x = false →
      argExact y x = if fsign y then 0xBF490FDB#32 else 0x3F490FDB#32) ∧
    (isZero y = false → fmag y = fmag x → fsign x = true →
      argExact y x = if fsign y then 0xC016CBE4#32 else 0x4016CBE4#32)

/-- 43_discriminator.md R157 items 1 and 2, and R160: ARG_EXACT is NaN on a NaN operand, and otherwise finite and in
[-pi32, +pi32], whatever the open values are; so a DISC_IN output under ARG_EXACT is NaN or in that range. -/
def Obligations.ArgExactStaysInRange : Prop :=
  (∀ y x : F32, isNaN y = true ∨ isNaN x = true → isNaN (argExact y x) = true) ∧
  (∀ y x : F32, isNaN y = false → isNaN x = false →
    isFinite (argExact y x) = true ∧ fmag (argExact y x) ≤ fmag 0x40490FDB#32) ∧
  (∀ (np : NormPoint) (d : Disc) (a b : F32),
    isNaN (discIn np .exact d a b).out = true ∨ fmag (discIn np .exact d a b).out ≤ fmag 0x40490FDB#32)

/-- 43_discriminator.md R157 item 4: ARG_EXACT is odd in its first operand, on every pattern. -/
def Obligations.ArgExactIsOdd : Prop :=
  ∀ y x : F32, argExact (fneg y) x = fneg (argExact y x)

/-- 43_discriminator.md R157 item 5, for the results that items 1, 3 and 4 leave open: within one unit in the last place
of the real `atan2(y, x)`, the argument of the complex number x + i*y, whatever the draw. `e` is the real angle's
exponent; the unit is that of the binade it lies in, 2^-149 at least (log 9). -/
def Obligations.ArgExactOpenValuesMeetTheBound : Prop :=
  ∀ y x : F32, isFinite y = true → isZero y = false → isFinite x = true → isZero x = false → fmag y ≠ fmag x →
    ∀ e : ℤ, (2 : ℝ) ^ e ≤ |Complex.arg ⟨fval x, fval y⟩| → |Complex.arg ⟨fval x, fval y⟩| < (2 : ℝ) ^ (e + 1) →
      |(fval (argExact y x) : ℝ) / 2 ^ 149 - Complex.arg ⟨fval x, fval y⟩| ≤ (2 : ℝ) ^ (max e (-126) - 23)

/-- 45_deemphasis.md R181, DEEMPH_IN expanded for two taps. -/
def Obligations.DeemphasisStepIsTheTwoTapRecursion : Prop :=
  ∀ (e : DeEmph) (v : F32),
    (deemphIn e v).b0 = e.b0 ∧ (deemphIn e v).a1 = e.a1 ∧
    (deemphIn e v).filt.x = #v[v, e.filt.x[0]] ∧
    (deemphIn e v).filt.y = #v[(deemphIn e v).filt.out, e.filt.y[0]] ∧
    (deemphIn e v).filt.out =
      fdiv
        (fsub (fadd (fadd 0x00000000#32 (fmul e.b0 v)) (fmul 0x00000000#32 e.filt.x[0]))
          (fadd 0x00000000#32 (fmul e.a1 e.filt.y[0])))
        0x3F800000#32

/-- 45_deemphasis.md R183 and R181, with `d = +0.0`: a finite nonzero input passes unchanged and a zero gives +0.0, where
the previous input and output are finite; a NaN or infinite previous input, or previous output, makes the output NaN.
That the previous output must be finite is not in R183's text; it follows from R181 (log 23). -/
def Obligations.DeemphasisWithZeroCoefficientPassesThrough : Prop :=
  (deemphInit 0x00000000#32).b0 = 0x3F800000#32 ∧ (deemphInit 0x00000000#32).a1 = 0x80000000#32 ∧
  ∀ (e : DeEmph) (v : F32), e.b0 = 0x3F800000#32 → e.a1 = 0x80000000#32 →
    (isFinite v = true → isFinite e.filt.x[0] = true → isFinite e.filt.y[0] = true →
      (deemphIn e v).filt.out = if isZero v then 0x00000000#32 else v) ∧
    (isFinite e.filt.x[0] = false ∨ isFinite e.filt.y[0] = false → isNaN (deemphIn e v).filt.out = true)

/-! ### The whole machine -/

/-- 10_state.md R55, 70_reset_and_hazards.md R302: the state after reset satisfies the invariant. -/
def Obligations.ResetSatisfiesTheInvariant : Prop := State.reset.Inv

/-- Every step keeps the invariant: the configuration of a constructed pipeline is legal, `dec_cnt` is below N, a box
index in use is below the window, the buffer is within its capacity and empty outside a block, a fault code stands
exactly in FAULT, the unused smoothers and the units in UNCONF hold their initial values, and only a write is held,
only in FLUSH or right after it. -/
def Obligations.StepKeepsTheInvariant : Prop :=
  ∀ s t : State, s.Inv → step s = .next t → t.Inv

/-- 46_pipeline.md R196, with the capacity of 70_reset_and_hazards.md R308: P PAIRs in INBLOCK from dec_cnt = c append
⌊(c + P)/N⌋ samples and leave dec_cnt = (c + P) mod N, where the buffer has room for them. -/
def Obligations.PairsAppendOneSamplePerWindow : Prop :=
  ∀ (ps : List (Byte × Byte)) (s : State), s.mode = .inblock → s.dec.cnt < s.decimN →
    s.buf.length + (s.dec.cnt.toNat + ps.length) / s.decimN.toNat ≤ 8192 →
    ∃ t, runPairs ps s = .next t ∧ t.mode = .inblock ∧
      t.buf.length = s.buf.length + (s.dec.cnt.toNat + ps.length) / s.decimN.toNat ∧
      t.dec.cnt.toNat = (s.dec.cnt.toNat + ps.length) % s.decimN.toNat ∧
      t.pairCount = s.pairCount + BitVec.ofNat 32 ps.length ∧ s.buf <+: t.buf

/-- 46_pipeline.md R198: no reordering, duplication or loss. In every step that does not end in UNCONF, the blocks
delivered so far followed by the buffered samples are what they were, followed by at most one new sample. -/
def Obligations.OutputStreamOnlyGrows : Prop :=
  ∀ s t : State, s.Inv → step s = .next t → t.mode ≠ .unconf →
    s.sinkLog <+: t.sinkLog ∧
    ∃ new : List Sample, new.length ≤ 1 ∧ t.sinkLog.flatten ++ t.buf = s.sinkLog.flatten ++ s.buf ++ new

/-- 10_state.md R43, 70_reset_and_hazards.md R307: the configuration is frozen from CONSTRUCT until the next reset. -/
def Obligations.ConfigurationIsFrozenUntilReset : Prop :=
  ∀ s t : State, step s = .next t → s.mode ≠ .unconf → t.mode ≠ .unconf →
    t.ctrl = s.ctrl ∧ t.decimN = s.decimN ∧ t.boxN = s.boxN ∧ t.deemphD = s.deemphD ∧ t.scale = s.scale

/-- 41_recursive_filter.md R121, 42_box_filter.md R137, 46_pipeline.md R191: no cross-channel coupling. What a PAIR
leaves in the I smoothers depends on no Q byte and on no Q smoother, and likewise for Q. -/
def Obligations.ChannelsDoNotInteract : Prop :=
  ∀ (ib qb ib' qb' : Byte) (s s' t t' : State),
    s.mode = .inblock → s'.mode = .inblock → s.ctrl = s'.ctrl → s.boxN = s'.boxN →
    exec (.pair ib qb) s = .next t → exec (.pair ib' qb') s' = .next t' →
    (ib = ib' → s.si = s'.si → s.bi = s'.bi → t.si = t'.si ∧ t.bi = t'.bi) ∧
    (qb = qb' → s.sq = s'.sq → s.bq = s'.bq → t.sq = t'.sq ∧ t.bq = t'.bq)
end

