-- ==== Sys2Proof/Laws/Numeric.lean ====
section
/-! SUPPORT. The small lemmas of the numeric primitives and of the units. -/

namespace Sys2Proof.Machine

/-! ### Patterns -/

/-- The pattern of a sign and magnitude bits below 2^31, as a number. -/
theorem withSign_toNat {neg : Bool} {m : Nat} (h : m < 2 ^ 31) :
    (withSign neg m).toNat = (if neg then 2 ^ 31 else 0) + m := by
  unfold withSign
  rw [BitVec.toNat_ofNat, Nat.mod_eq_of_lt]
  split <;> omega

theorem fsign_eq (a : F32) : fsign a = decide (2 ^ 31 ≤ a.toNat) := by
  simp [fsign, BitVec.msb_eq_decide]

theorem fexp_eq (a : F32) : fexp a = a.toNat / 2 ^ 23 % 2 ^ 8 := by
  simp [fexp, BitVec.extractLsb'_toNat, Nat.shiftRight_eq_div_pow]

theorem ffrac_eq (a : F32) : ffrac a = a.toNat % 2 ^ 23 := by
  simp [ffrac, BitVec.extractLsb'_toNat]

@[simp] theorem fsign_withSign {neg : Bool} {m : Nat} (h : m < 2 ^ 31) : fsign (withSign neg m) = neg := by
  rw [fsign_eq, withSign_toNat h]
  cases neg
  · simp only [Bool.false_eq_true, if_false, decide_eq_false_iff_not]
    omega
  · simp

theorem fexp_withSign {neg : Bool} {m : Nat} (h : m < 2 ^ 31) : fexp (withSign neg m) = m / 2 ^ 23 := by
  rw [fexp_eq, withSign_toNat h]
  cases neg <;> (simp; omega)

theorem ffrac_withSign {neg : Bool} {m : Nat} (h : m < 2 ^ 31) : ffrac (withSign neg m) = m % 2 ^ 23 := by
  rw [ffrac_eq, withSign_toNat h]
  cases neg
  · simp
  · simp; omega

/-- A rounded magnitude is at most that of an infinity. -/
theorem roundBits_le (num den : Nat) : roundBits num den ≤ infBits := Nat.min_le_right _ _

theorem roundBits_lt (num den : Nat) : roundBits num den < 2 ^ 31 :=
  Nat.lt_of_le_of_lt (roundBits_le num den) (by decide)

/-- A sign with magnitude bits up to those of an infinity is no NaN. -/
theorem isNaN_withSign {neg : Bool} {m : Nat} (h : m ≤ infBits) : isNaN (withSign neg m) = false := by
  have h' : m < 2 ^ 31 := Nat.lt_of_le_of_lt h (by decide)
  have hi : m ≤ 2139095040 := h
  simp only [isNaN, fexp_withSign h', ffrac_withSign h', Bool.and_eq_false_iff, beq_eq_false_iff_ne, bne_eq_false_iff_eq]
  omega

/-- A quiet NaN's pattern as a number: sign, exponent 255, quiet bit, payload. -/
theorem quietNaN_toNat (d : BitVec 23) :
    (quietNaN d).toNat = d.toNat / 2 ^ 22 * 2 ^ 31 + 0x1FF * 2 ^ 22 + d.toNat % 2 ^ 22 := by
  have hd := d.isLt
  unfold quietNaN
  rw [BitVec.toNat_append, BitVec.toNat_append]
  simp only [BitVec.extractLsb'_toNat, BitVec.toNat_ofNat, Nat.shiftRight_eq_div_pow, Nat.pow_zero, Nat.div_one]
  rw [← Nat.shiftLeft_add_eq_or_of_lt (by omega), ← Nat.shiftLeft_add_eq_or_of_lt (by omega)]
  simp only [Nat.shiftLeft_eq]
  omega

/-- The quiet NaN of every draw is a quiet NaN (40_numerics.md R105). -/
@[simp] theorem isQuietNaN_quietNaN (d : BitVec 23) : isQuietNaN (quietNaN d) = true := by
  have hd := d.isLt
  simp only [isQuietNaN, isNaN, fexp_eq, ffrac_eq, BitVec.getLsbD, Nat.testBit_eq_decide_div_mod_eq, quietNaN_toNat,
    Bool.and_eq_true, beq_iff_eq, bne_iff_ne, decide_eq_true_eq]
  omega

theorem isNaN_of_isQuietNaN {a : F32} (h : isQuietNaN a = true) : isNaN a = true := by
  simp only [isQuietNaN, Bool.and_eq_true] at h
  exact h.1

@[simp] theorem isQuietNaN_nanResult (op : NanOp) (a b : F32) : isQuietNaN (nanResult op a b) = true :=
  isQuietNaN_quietNaN _

@[simp] theorem isNaN_nanResult (op : NanOp) (a b : F32) : isNaN (nanResult op a b) = true :=
  isNaN_of_isQuietNaN (isQuietNaN_nanResult op a b)

/-! ### Rounding -/

/-- Rounding to a whole number errs by at most one half. -/
theorem roundHalfEven_bounds (num : Nat) {den : Nat} (hd : 0 < den) :
    2 * (roundHalfEven num den * den) ≤ 2 * num + den ∧ 2 * num ≤ 2 * (roundHalfEven num den * den) + den := by
  have hdm := Nat.div_add_mod num den
  have hlt := Nat.mod_lt num hd
  rw [Nat.mul_comm] at hdm
  unfold roundHalfEven
  simp only
  split
  · rw [Nat.add_mul, Nat.one_mul]
    omega
  · omega

/-- A rounded whole number is the quotient or the next number. -/
theorem roundHalfEven_mem (num den : Nat) :
    num / den ≤ roundHalfEven num den ∧ roundHalfEven num den ≤ num / den + 1 := by
  unfold roundHalfEven
  simp only
  split <;> omega

/-- The significand that a rounding scales to: below 2^24, and at least 2^23 where the exponent step is not 0. -/
theorem significand_bounds (num den : Nat) :
    num / (den * 2 ^ stepOf num den) < 2 ^ 24 ∧ (stepOf num den ≠ 0 → 2 ^ 23 ≤ num / (den * 2 ^ stepOf num den)) := by
  rw [← Nat.div_div_eq_div_mul]
  unfold stepOf
  generalize num / den = k
  by_cases hk : k = 0
  · subst hk
    simp
  · have hlo := Nat.log2_self_le hk
    have hhi : k < 2 ^ (k.log2 + 1) := Nat.lt_log2_self
    constructor
    · rw [Nat.div_lt_iff_lt_mul (by positivity), ← Nat.pow_add]
      exact hhi.trans_le (Nat.pow_le_pow_right (by decide) (by omega))
    · intro h
      rw [Nat.le_div_iff_mul_le (by positivity), ← Nat.pow_add, show 23 + (k.log2 - 23) = k.log2 by omega]
      exact hlo

/-- The value of a pattern whose magnitude bits are an exponent step and a significand up to 2^24. -/
theorem fmag_withSign_scaled {neg : Bool} {s q : Nat} (hq : q ≤ 2 ^ 24) (hs : s ≠ 0 → 2 ^ 23 ≤ q)
    (h : s * 2 ^ 23 + q < 2 ^ 31) : fmag (withSign neg (s * 2 ^ 23 + q)) = q * 2 ^ s := by
  unfold fmag
  rw [fexp_withSign h, ffrac_withSign h]
  have hcases : q < 2 ^ 23 ∨ (2 ^ 23 ≤ q ∧ q < 2 ^ 24) ∨ q = 2 ^ 24 := by omega
  rcases hcases with hc | ⟨hc, hc'⟩ | hc
  · have : s = 0 := by
      by_contra hne
      have := hs hne
      omega
    subst this
    rw [if_pos (by omega)]
    omega
  · rw [if_neg (by omega), show (s * 2 ^ 23 + q) / 2 ^ 23 - 1 = s by omega]
    congr 1
    omega
  · subst hc
    rw [if_neg (by omega), show (s * 2 ^ 23 + 2 ^ 24) / 2 ^ 23 - 1 = s + 1 by omega,
      show (s * 2 ^ 23 + 2 ^ 24) % 2 ^ 23 = 0 by omega, Nat.pow_succ]
    ring

/-- The value of a rounding that stays below the infinity: a whole number of the exponent step's units. -/
theorem fmag_roundBits {neg : Bool} {num den : Nat}
    (h : stepOf num den * 2 ^ 23 + roundHalfEven num (den * 2 ^ stepOf num den) < infBits) :
    fmag (withSign neg (roundBits num den)) =
      roundHalfEven num (den * 2 ^ stepOf num den) * 2 ^ stepOf num den := by
  have hb := significand_bounds num den
  have hm := roundHalfEven_mem num (den * 2 ^ stepOf num den)
  unfold roundBits
  rw [Nat.min_eq_left h.le]
  refine fmag_withSign_scaled (by omega) (fun hs => (hb.2 hs).trans hm.1) (h.trans (by decide))

/-- A rounding is finite exactly where its magnitude bits stay below the infinity. -/
theorem isFinite_roundBits_iff (num den : Nat) :
    isFinite (withSign false (roundBits num den)) = true ↔
      stepOf num den * 2 ^ 23 + roundHalfEven num (den * 2 ^ stepOf num den) < infBits := by
  have hlt := roundBits_lt num den
  unfold isFinite
  rw [fexp_withSign hlt]
  unfold roundBits infBits at *
  simp only [bne_iff_ne]
  omega

/-- The value of a rounding that stays below the infinity is within half of the exponent step of the exact value. -/
theorem roundBits_error {neg : Bool} {num den : Nat} (hd : 0 < den)
    (h : stepOf num den * 2 ^ 23 + roundHalfEven num (den * 2 ^ stepOf num den) < infBits) :
    2 * (fmag (withSign neg (roundBits num den)) * den) ≤ 2 * num + den * 2 ^ stepOf num den ∧
      2 * num ≤ 2 * (fmag (withSign neg (roundBits num den)) * den) + den * 2 ^ stepOf num den := by
  have hb := roundHalfEven_bounds num (den := den * 2 ^ stepOf num den) (by positivity)
  rw [fmag_roundBits h]
  rwa [show roundHalfEven num (den * 2 ^ stepOf num den) * 2 ^ stepOf num den * den =
    roundHalfEven num (den * 2 ^ stepOf num den) * (den * 2 ^ stepOf num den) by ring]

/-! ### Negation and magnitude -/

/-- Bits of `fneg`: bit 31 inverted, the others kept. -/
theorem fneg_getLsbD (a : F32) (i : Nat) : (fneg a).getLsbD i = if i = 31 then !a.getLsbD i else a.getLsbD i := by
  have hk : ∀ j < 32, (0x80000000#32).getLsbD j = decide (j = 31) := by decide
  by_cases hi : i < 32
  · rw [fneg, BitVec.getLsbD_xor, hk i hi]
    by_cases h : i = 31 <;> simp [h]
  · rw [BitVec.getLsbD_of_ge (fneg a) i (by omega), BitVec.getLsbD_of_ge a i (by omega), if_neg (by omega)]

/-- Bits of `fabs`: bit 31 cleared, the others kept. -/
theorem fabs_getLsbD (a : F32) (i : Nat) : (fabs a).getLsbD i = if i = 31 then false else a.getLsbD i := by
  have hk : ∀ j < 32, (0x7FFFFFFF#32).getLsbD j = !decide (j = 31) := by decide
  by_cases hi : i < 32
  · rw [fabs, BitVec.getLsbD_and, hk i hi]
    by_cases h : i = 31 <;> simp [h]
  · rw [BitVec.getLsbD_of_ge (fabs a) i (by omega), BitVec.getLsbD_of_ge a i (by omega), if_neg (by omega)]

theorem fsign_bit (a : F32) : fsign a = a.getLsbD 31 := by simp [fsign, BitVec.msb_eq_getLsbD_last]

@[simp] theorem fneg_fneg (a : F32) : fneg (fneg a) = a := by simp [fneg]

@[simp] theorem fsign_fneg (a : F32) : fsign (fneg a) = !fsign a := by
  rw [fsign_bit, fsign_bit, fneg_getLsbD, if_pos rfl]
@[simp] theorem fexp_fneg (a : F32) : fexp (fneg a) = fexp a := by
  have : (fneg a).extractLsb' 23 8 = a.extractLsb' 23 8 := by
    apply BitVec.eq_of_getLsbD_eq
    intro i hi
    simp only [BitVec.getLsbD_extractLsb', fneg_getLsbD, if_neg (show ¬ 23 + i = 31 by omega)]
  simp only [fexp, this]
@[simp] theorem ffrac_fneg (a : F32) : ffrac (fneg a) = ffrac a := by
  have : (fneg a).extractLsb' 0 23 = a.extractLsb' 0 23 := by
    apply BitVec.eq_of_getLsbD_eq
    intro i hi
    simp only [BitVec.getLsbD_extractLsb', fneg_getLsbD, if_neg (show ¬ 0 + i = 31 by omega)]
  simp only [ffrac, this]
@[simp] theorem fmag_fneg (a : F32) : fmag (fneg a) = fmag a := by simp [fmag]
@[simp] theorem isNaN_fneg (a : F32) : isNaN (fneg a) = isNaN a := by simp [isNaN]
@[simp] theorem isInf_fneg (a : F32) : isInf (fneg a) = isInf a := by simp [isInf]
@[simp] theorem isFinite_fneg (a : F32) : isFinite (fneg a) = isFinite a := by simp [isFinite]
@[simp] theorem isZero_fneg (a : F32) : isZero (fneg a) = isZero a := by simp [isZero]
@[simp] theorem fval_fneg (a : F32) : fval (fneg a) = -fval a := by
  simp only [fval, fsign_fneg, fmag_fneg]
  cases fsign a <;> simp

@[simp] theorem fsign_fabs (a : F32) : fsign (fabs a) = false := by
  rw [fsign_bit, fabs_getLsbD, if_pos rfl]
@[simp] theorem fexp_fabs (a : F32) : fexp (fabs a) = fexp a := by
  have : (fabs a).extractLsb' 23 8 = a.extractLsb' 23 8 := by
    apply BitVec.eq_of_getLsbD_eq
    intro i hi
    simp only [BitVec.getLsbD_extractLsb', fabs_getLsbD, if_neg (show ¬ 23 + i = 31 by omega)]
  simp only [fexp, this]
@[simp] theorem ffrac_fabs (a : F32) : ffrac (fabs a) = ffrac a := by
  have : (fabs a).extractLsb' 0 23 = a.extractLsb' 0 23 := by
    apply BitVec.eq_of_getLsbD_eq
    intro i hi
    simp only [BitVec.getLsbD_extractLsb', fabs_getLsbD, if_neg (show ¬ 0 + i = 31 by omega)]
  simp only [ffrac, this]
@[simp] theorem fmag_fabs (a : F32) : fmag (fabs a) = fmag a := by simp [fmag]
@[simp] theorem isNaN_fabs (a : F32) : isNaN (fabs a) = isNaN a := by simp [isNaN]
@[simp] theorem isInf_fabs (a : F32) : isInf (fabs a) = isInf a := by simp [isInf]
@[simp] theorem isZero_fabs (a : F32) : isZero (fabs a) = isZero a := by simp [isZero]
@[simp] theorem fabs_fneg (a : F32) : fabs (fneg a) = fabs a := by
  apply BitVec.eq_of_getLsbD_eq
  intro i hi
  simp only [fabs_getLsbD, fneg_getLsbD]
  split <;> rfl

/-! ### NaN operands -/

theorem addCore_nan {a b : F32} (h : isNaN a = true ∨ isNaN b = true) : addCore a b = none := by
  rcases h with h | h <;> simp [addCore, h]

theorem mulCore_nan {a b : F32} (h : isNaN a = true ∨ isNaN b = true) : mulCore a b = none := by
  rcases h with h | h <;> simp [mulCore, h]

theorem divCore_nan {a b : F32} (h : isNaN a = true ∨ isNaN b = true) : divCore a b = none := by
  rcases h with h | h <;> simp [divCore, h]

/-! ### Histories -/

/-- The shifted history: `v` at index 0, each other element from the position before it. -/
theorem shiftIn_getElem {n : Nat} (v : F32) (h : Vector F32 n) (i : Nat) (hi : i < n) :
    (shiftIn v h)[i] = if i = 0 then v else h[i - 1]'(by omega) := by
  obtain ⟨⟨l⟩, hl⟩ := h
  simp only [shiftIn, Vector.getElem_mk, List.getElem_toArray, List.getElem_take, Vector.toList]
  cases i <;> simp

end Sys2Proof.Machine
end

