-- ==== Sys2Proof/Laws/Angle.lean ====
section
/-! SUPPORT. The fixed-point angle is within `angleError` units of the real one: the ground of item 5 of
43_discriminator.md R157. -/

namespace Sys2Proof.Machine

/-- The fixed point's scale, 2^1024, as a real number. -/
noncomputable abbrev scale : ℝ := 2 ^ angleBits

/-- The real sum that `atanTail` computes, `n` terms from the power `k`. -/
noncomputable def seriesSum (t : ℝ) (n k : Nat) : ℝ := ∑ j ∈ Finset.range n, (-1) ^ j * (t ^ (k + 2 * j) / (k + 2 * j : ℕ))

/-- The series' first term taken off. -/
theorem seriesSum_succ (t : ℝ) (n k : Nat) :
    seriesSum t (n + 1) k = t ^ k / (k : ℕ) - seriesSum t n (k + 2) := by
  unfold seriesSum
  rw [Finset.sum_range_succ', add_comm, sub_eq_add_neg, ← Finset.sum_neg_distrib]
  congr 1
  · simp
  · refine Finset.sum_congr rfl fun j _ => ?_
    rw [show k + 2 * (j + 1) = k + 2 + 2 * j by ring, pow_succ]
    ring

/-- Rounding down loses less than one. -/
theorem natDiv_bounds (a : Nat) {b : Nat} (hb : 0 < b) :
    ((a / b : Nat) : ℝ) ≤ (a : ℝ) / b ∧ (a : ℝ) / b - 1 < ((a / b : Nat) : ℝ) := by
  refine ⟨Nat.cast_div_le, ?_⟩
  have hb' : (0 : ℝ) < b := by exact_mod_cast hb
  have h : a < b * (a / b + 1) := by
    have := Nat.div_add_mod a b
    have := Nat.mod_lt a hb
    rw [Nat.mul_add]
    omega
  have h' : (a : ℝ) < b * ((a / b : Nat) + 1) := by exact_mod_cast h
  rw [sub_lt_iff_lt_add, div_lt_iff₀ hb']
  linarith

/-- A fixed-point ratio is the ratio rounded down. -/
theorem fixedRatio_bounds (p : Nat) {q : Nat} (hq : 0 < q) :
    (fixedRatio p q : ℝ) ≤ (p : ℝ) / q * scale ∧ (p : ℝ) / q * scale - 1 < fixedRatio p q := by
  have h := natDiv_bounds (p * 2 ^ angleBits) hq
  rw [Nat.cast_mul, Nat.cast_pow, Nat.cast_ofNat, mul_div_right_comm] at h
  exact h

/-- One step of the power: within 2 units below the real power, as before. -/
theorem power_step {pow t2 : Nat} {t u : ℝ} (ht0 : 0 ≤ t) (ht : t ≤ 3 / 7) (hu0 : 0 ≤ u) (hu : u ≤ t * scale)
    (hp : (pow : ℝ) ≤ u ∧ u - 2 ≤ pow) (h2 : (t2 : ℝ) ≤ t ^ 2 * scale ∧ t ^ 2 * scale - 1 ≤ t2) :
    ((pow * t2 / 2 ^ angleBits : Nat) : ℝ) ≤ u * t ^ 2 ∧ u * t ^ 2 - 2 ≤ ((pow * t2 / 2 ^ angleBits : Nat) : ℝ) := by
  have hS : (0 : ℝ) < scale := by positivity
  obtain ⟨hlo, hhi⟩ := natDiv_bounds (pow * t2) (b := 2 ^ angleBits) (by positivity)
  push_cast at hlo hhi ⊢
  have hp0 : (0 : ℝ) ≤ pow := by positivity
  have ht20 : (0 : ℝ) ≤ t2 := by positivity
  have htt : t ^ 2 ≤ 9 / 49 := by nlinarith
  constructor
  · refine hlo.trans ?_
    rw [div_le_iff₀ hS]
    calc (pow : ℝ) * t2 ≤ u * (t ^ 2 * scale) := mul_le_mul hp.1 h2.1 ht20 hu0
      _ = u * t ^ 2 * scale := by ring
  · have key : (u * t ^ 2 - 1) * scale ≤ pow * t2 := by
      have h1 : u * (t ^ 2 * scale - 1) ≤ u * t2 := mul_le_mul_of_nonneg_left h2.2 hu0
      have h3 : (u - 2) * t2 ≤ pow * t2 := mul_le_mul_of_nonneg_right hp.2 ht20
      nlinarith [h2.1]
    have := (le_div_iff₀ hS).2 key
    linarith

/-- The error of a term is at most 3 units, so that of the sum at most 3 for each term. -/
theorem atanTail_error {t2 : Nat} {t : ℝ} (ht0 : 0 ≤ t) (ht : t ≤ 3 / 7)
    (h2 : (t2 : ℝ) ≤ t ^ 2 * scale ∧ t ^ 2 * scale - 1 ≤ t2) (n : Nat) :
    ∀ (k pow : Nat), 1 ≤ k → ((pow : ℝ) ≤ t ^ k * scale ∧ t ^ k * scale - 2 ≤ pow) →
      |(atanTail t2 n k pow : ℝ) - seriesSum t n k * scale| ≤ 3 * n := by
  induction n with
  | zero => intro k pow _ _; simp [atanTail, seriesSum]
  | succ n ih =>
    intro k pow hk hp
    have hS : (0 : ℝ) < scale := by positivity
    have hu0 : 0 ≤ t ^ k * scale := by positivity
    have hu : t ^ k * scale ≤ t * scale := by
      refine mul_le_mul_of_nonneg_right ?_ hS.le
      exact pow_le_of_le_one ht0 (by linarith) (by omega)
    have hnext := power_step ht0 ht hu0 hu hp h2
    rw [show t ^ k * scale * t ^ 2 = t ^ (k + 2) * scale by ring] at hnext
    have hrec := ih (k + 2) (pow * t2 / 2 ^ angleBits) (by omega) hnext
    have hk' : (1 : ℝ) ≤ k := by exact_mod_cast hk
    obtain ⟨hlo, hhi⟩ := natDiv_bounds pow hk
    have hterm : |((pow / k : Nat) : ℝ) - t ^ k / k * scale| ≤ 3 := by
      have e : t ^ k / k * scale = t ^ k * scale / k := by ring
      have hkpos : (0 : ℝ) < k := by linarith
      have h1 : (pow : ℝ) / k ≤ t ^ k * scale / k := div_le_div_of_nonneg_right hp.1 hkpos.le
      have h2 : t ^ k * scale / k - 2 ≤ pow / k := by
        have : (t ^ k * scale - 2) / k ≤ pow / k := div_le_div_of_nonneg_right hp.2 hkpos.le
        have : (2 : ℝ) / k ≤ 2 := div_le_self (by norm_num) hk'
        rw [sub_div] at *
        linarith
      rw [e, abs_le]
      constructor <;> linarith
    rw [seriesSum_succ]
    simp only [atanTail]
    rw [Int.cast_sub, Int.cast_natCast, sub_mul, Nat.cast_add, Nat.cast_one]
    rw [abs_le] at *
    constructor <;> linarith [hterm.1, hterm.2, hrec.1, hrec.2]

/-- The series of the arctangent, stopped after `atanTerms` terms, is below it by less than one unit. -/
theorem seriesSum_arctan {t : ℝ} (ht0 : 0 ≤ t) (ht : t ≤ 3 / 7) :
    0 ≤ Real.arctan t - seriesSum t atanTerms 1 ∧ (Real.arctan t - seriesSum t atanTerms 1) * scale ≤ 1 := by
  have hsum := (Real.hasSum_arctan (x := t) (by rw [Real.norm_of_nonneg ht0]; linarith)).tendsto_sum_nat
  have hform : ∀ n, seriesSum t n 1 = ∑ i ∈ Finset.range n, (-1) ^ i * (t ^ (2 * i + 1) / (2 * i + 1 : ℕ)) := by
    intro n
    unfold seriesSum
    refine Finset.sum_congr rfl fun j _ => ?_
    rw [show 1 + 2 * j = 2 * j + 1 by ring]
  have hanti : Antitone fun i : ℕ => t ^ (2 * i + 1) / ((2 * i + 1 : ℕ) : ℝ) := by
    intro i j hij
    refine div_le_div₀ (by positivity) (pow_le_pow_of_le_one ht0 (by linarith) (by omega)) (by positivity) ?_
    exact_mod_cast (by omega : 2 * i + 1 ≤ 2 * j + 1)
  have hlim : Filter.Tendsto (fun n => ∑ i ∈ Finset.range n, (-1) ^ i * (t ^ (2 * i + 1) / ((2 * i + 1 : ℕ) : ℝ)))
      Filter.atTop (nhds (Real.arctan t)) := by
    refine hsum.congr fun n => Finset.sum_congr rfl fun i _ => ?_
    push_cast
    ring
  have hlow := hanti.alternating_series_le_tendsto hlim 220
  have hupp := hanti.tendsto_le_alternating_series hlim 220
  have e : seriesSum t atanTerms 1 =
      ∑ i ∈ Finset.range (2 * 220), (-1) ^ i * (t ^ (2 * i + 1) / ((2 * i + 1 : ℕ) : ℝ)) := hform 440
  rw [Finset.sum_range_succ, ← e] at hupp
  rw [← e] at hlow
  refine ⟨sub_nonneg.2 hlow, ?_⟩
  have hlast : (-1 : ℝ) ^ (2 * 220) * (t ^ (2 * (2 * 220) + 1) / ((2 * (2 * 220) + 1 : ℕ) : ℝ)) ≤ (3 / 7) ^ 881 := by
    rw [pow_mul, neg_one_sq, one_pow, one_mul]
    exact (div_le_self (by positivity) (by norm_num)).trans (pow_le_pow_left₀ ht0 ht _)
  have hsmall : ((3 : ℝ) / 7) ^ 881 * scale ≤ 1 := by
    have hpow : ((3 : ℝ) / 7) ^ 881 * 2 ^ 1024 ≤ ((3 / 7) ^ 11 * 2 ^ 13) ^ 80 := by
      rw [mul_pow, ← pow_mul, ← pow_mul]
      refine mul_le_mul ?_ ?_ (by positivity) (by positivity)
      · exact pow_le_pow_of_le_one (by norm_num) (by norm_num) (by norm_num)
      · exact pow_le_pow_right₀ (by norm_num) (by norm_num)
    exact hpow.trans (pow_le_one₀ (by positivity) (by norm_num))
  have hS : (0 : ℝ) < scale := by positivity
  calc (Real.arctan t - seriesSum t atanTerms 1) * scale ≤ (3 / 7) ^ 881 * scale :=
        mul_le_mul_of_nonneg_right (sub_le_iff_le_add'.2 (hupp.trans (add_le_add_right hlast _))) hS.le
    _ ≤ 1 := hsmall

/-- The arctangent grows no faster than its argument. -/
theorem arctan_sub_le {a b : ℝ} (h : a ≤ b) : Real.arctan b - Real.arctan a ≤ b - a := by
  have hmono : Monotone fun x => x - Real.arctan x := by
    refine monotone_of_deriv_nonneg (differentiable_id.sub Real.differentiable_arctan) fun x => ?_
    have hd : HasDerivAt (fun x => x - Real.arctan x) (1 - 1 / (1 + x ^ 2)) x :=
      (hasDerivAt_id x).sub (Real.hasDerivAt_arctan x)
    rw [hd.deriv, sub_nonneg, div_le_one (by positivity)]
    nlinarith [sq_nonneg x]
  have := hmono h
  simp only at this
  linarith

/-- The series on the fixed-point value of `p / q`, up to 3/7, is within 2^11 units of its arctangent. -/
theorem atanSeries_error {p q : Nat} (hq : 0 < q) (h : 7 * p ≤ 3 * q) :
    |(atanSeries (fixedRatio p q) : ℝ) - Real.arctan ((p : ℝ) / q) * scale| ≤ 2 ^ 11 := by
  have hS : (0 : ℝ) < scale := by positivity
  have hq' : (0 : ℝ) < q := by exact_mod_cast hq
  have h' : 7 * (p : ℝ) ≤ 3 * q := by exact_mod_cast h
  have hr : (p : ℝ) / q ≤ 3 / 7 := by
    rw [div_le_div_iff₀ hq' (by norm_num)]
    linarith
  obtain ⟨hlo, hhi⟩ := fixedRatio_bounds p hq
  generalize fixedRatio p q = T at hlo hhi ⊢
  have hTS : (T : ℝ) = T / scale * scale := (div_mul_cancel₀ _ hS.ne').symm
  have ht0 : 0 ≤ (T : ℝ) / scale := by positivity
  have htr : (T : ℝ) / scale ≤ p / q := (div_le_iff₀ hS).2 hlo
  have ht : (T : ℝ) / scale ≤ 3 / 7 := htr.trans hr
  have hmain : |(atanSeries T : ℝ) - seriesSum (T / scale) atanTerms 1 * scale| ≤ 3 * (atanTerms : ℕ) := by
    refine atanTail_error ht0 ht ?_ atanTerms 1 T le_rfl ?_
    · obtain ⟨h1, h2⟩ := natDiv_bounds (T * T) (b := 2 ^ angleBits) (by positivity)
      have e : ((T * T : ℕ) : ℝ) / ((2 ^ angleBits : ℕ) : ℝ) = (T / scale) ^ 2 * scale := by
        push_cast
        field_simp
      rw [e] at h1 h2
      exact ⟨h1, h2.le⟩
    · rw [pow_one, ← hTS]
      constructor <;> linarith
  have hser := seriesSum_arctan ht0 ht
  have hlip := arctan_sub_le htr
  have hmon : Real.arctan (T / scale) ≤ Real.arctan (p / q) := Real.arctan_strictMono.monotone htr
  have hstep : (Real.arctan (p / q) - Real.arctan (T / scale)) * scale ≤ 1 := by
    calc (Real.arctan (p / q) - Real.arctan (T / scale)) * scale ≤ ((p : ℝ) / q - T / scale) * scale :=
          mul_le_mul_of_nonneg_right hlip hS.le
      _ = (p : ℝ) / q * scale - T := by rw [sub_mul, ← hTS]
      _ ≤ 1 := by linarith
  have hstep0 : 0 ≤ (Real.arctan (p / q) - Real.arctan (T / scale)) * scale :=
    mul_nonneg (sub_nonneg.2 hmon) hS.le
  have hser0 := mul_nonneg hser.1 hS.le
  have hterms : (3 : ℝ) * (atanTerms : ℕ) = 1320 := by unfold atanTerms; norm_num
  rw [hterms] at hmain
  rw [abs_le] at hmain ⊢
  rw [sub_mul] at hstep hstep0 hser0
  have hser1 := hser.2
  rw [sub_mul] at hser1
  constructor <;> linarith [hmain.1, hmain.2]

/-- Machin's formula: the fixed-point pi/4. -/
theorem quarterFixed_error : |(quarterFixed : ℝ) - Real.pi / 4 * scale| ≤ 5 * 2 ^ 11 := by
  have h5 := atanSeries_error (p := 1) (q := 5) (by norm_num) (by norm_num)
  have h239 := atanSeries_error (p := 1) (q := 239) (by norm_num) (by norm_num)
  rw [← Real.four_mul_arctan_inv_5_sub_arctan_inv_239]
  unfold quarterFixed
  push_cast at h5 h239 ⊢
  rw [one_div] at h5 h239
  rw [abs_le] at *
  constructor <;> linarith [h5.1, h5.2, h239.1, h239.2]

/-- The arctangent of a ratio below 1. -/
theorem atanRatio_error {p q : Nat} (hp : 0 < p) (h : p < q) :
    |(atanRatio p q : ℝ) - Real.arctan ((p : ℝ) / q) * scale| ≤ 6 * 2 ^ 11 := by
  have hp' : (0 : ℝ) < p := by exact_mod_cast hp
  have hq' : (0 : ℝ) < q := by exact_mod_cast hp.trans h
  unfold atanRatio
  split
  · refine (atanSeries_error (hp.trans h) (by omega)).trans (by norm_num)
  · have hs := atanSeries_error (p := q - p) (q := q + p) (by omega) (by omega)
    have hq := quarterFixed_error
    have hadd : Real.arctan ((q - p : ℕ) / (q + p : ℕ)) = Real.pi / 4 - Real.arctan (p / q) := by
      have hlt : ((q : ℝ) - p) / (q + p) * (p / q) < 1 := by
        rw [div_mul_div_comm, div_lt_one (by positivity)]
        nlinarith
      rw [Nat.cast_sub h.le, Nat.cast_add, ← Real.arctan_one, eq_sub_iff_add_eq, Real.arctan_add hlt]
      congr 1
      rw [div_eq_one_iff_eq (sub_pos.2 hlt).ne']
      field_simp
      ring
    rw [hadd] at hs
    push_cast
    rw [abs_le] at *
    constructor <;> nlinarith [hs.1, hs.2, hq.1, hq.2]

/-- The real angle of `(x, y)` for positive `y`. -/
theorem arg_of_pos {x y : ℝ} (hy : 0 < y) : Complex.arg ⟨x, y⟩ = Real.pi / 2 - Real.arctan (x / y) := by
  have h1 := Real.neg_pi_div_two_lt_arctan (x / y)
  have h2 := Real.arctan_lt_pi_div_two (x / y)
  have hpi := Real.pi_pos
  have hsq : (0 : ℝ) < √(1 + (x / y) ^ 2) := Real.sqrt_pos.2 (by positivity)
  have hr : 0 < y * √(1 + (x / y) ^ 2) := mul_pos hy hsq
  have harg := Complex.arg_mul_cos_add_sin_mul_I hr (θ := Real.pi / 2 - Real.arctan (x / y))
    ⟨by linarith, by linarith⟩
  rw [← harg]
  congr 1
  rw [← Complex.ofReal_cos, ← Complex.ofReal_sin, Real.cos_pi_div_two_sub, Real.sin_pi_div_two_sub,
    Real.sin_arctan, Real.cos_arctan]
  apply Complex.ext
  · simp
    field_simp
  · simp
    field_simp

/-- A finite value that is no zero has a positive magnitude. -/
theorem fmag_pos {a : F32} (h : isZero a = false) : 0 < fmag a := by
  unfold fmag
  split
  · rename_i he
    simp only [isZero, he, beq_self_eq_true, Bool.true_and, beq_eq_false_iff_ne] at h
    omega
  · positivity

/-- The computed angle is within `angleError` units of the real one. -/
theorem angleFixed_error {ay x : F32} (hy : isZero ay = false) (hx : isZero x = false) (hne : fmag ay ≠ fmag x) :
    |(angleFixed ay x : ℝ) - Complex.arg ⟨fval x, fmag ay⟩ * scale| ≤ angleError := by
  have hY := fmag_pos hy
  have hM := fmag_pos hx
  have hY' : (0 : ℝ) < fmag ay := by exact_mod_cast hY
  have hM' : (0 : ℝ) < fmag x := by exact_mod_cast hM
  have hE : (angleError : ℝ) = 2 ^ 17 := by norm_num [angleError]
  have hq := quarterFixed_error
  rw [arg_of_pos hY', hE]
  have hright : |(((if fmag ay < fmag x then atanRatio (fmag ay) (fmag x)
      else 2 * quarterFixed - atanRatio (fmag x) (fmag ay) : Int)) : ℝ) -
        (Real.pi / 2 - Real.arctan (fmag x / fmag ay)) * scale| ≤ 16 * 2 ^ 11 := by
    split
    · have h := atanRatio_error hY ‹_›
      rw [← inv_div, Real.arctan_inv_of_pos (div_pos hM' hY')] at h
      exact h.trans (by norm_num)
    · have h := atanRatio_error hM (by omega : fmag x < fmag ay)
      push_cast
      rw [abs_le] at *
      constructor <;> linarith [h.1, h.2, hq.1, hq.2]
  unfold angleFixed fval
  cases hs : fsign x
  · simp only [Bool.false_eq_true, if_false]
    push_cast at hright ⊢
    exact hright.trans (by norm_num)
  · simp only [if_true]
    push_cast at hright ⊢
    rw [neg_div, Real.arctan_neg]
    rw [abs_le] at *
    constructor <;> linarith [hright.1, hright.2, hq.1, hq.2]

/-- An admitted value is within one unit in the last place of every angle that the computed one may stand for, the unit
being that at the interval's lower end. -/
theorem argAdmits_sound {A : Int} {f : F32} {θ : ℝ} (h : argAdmits A f = true)
    (hθ : |(A : ℝ) - θ * scale| ≤ angleError) :
    |(fval f : ℝ) * 2 ^ unitBits - θ * scale| ≤
      (ulpUnits ((A - angleError).toNat / 2 ^ unitBits) * 2 ^ unitBits : ℕ) := by
  simp only [argAdmits, Bool.and_eq_true, decide_eq_true_eq] at h
  have h2 : |(fval f : ℝ) * 2 ^ unitBits - A| + angleError ≤
      (ulpUnits ((A - angleError).toNat / 2 ^ unitBits) * 2 ^ unitBits : ℕ) := by
    have h1 := h.2
    rw [← Nat.cast_le (α := ℝ), Nat.cast_add, Nat.cast_natAbs, Int.cast_abs, Int.cast_sub, Int.cast_mul, Int.cast_pow,
      Int.cast_ofNat] at h1
    exact h1
  calc |(fval f : ℝ) * 2 ^ unitBits - θ * scale|
      ≤ |(fval f : ℝ) * 2 ^ unitBits - A| + |(A : ℝ) - θ * scale| := abs_sub_le _ _ _
    _ ≤ _ := by linarith

/-- Of an angle `A` that is not above pi32, in units of `1/d`, the nearest binary32 is finite, not above pi32, and within
half a unit in the last place, so that an error of `E` units more stays within the unit at `A - E`. -/
theorem nearest_within {A : Int} {d E : Nat} (hd : 0 < d) (hE : 16 * E ≤ d) (hlo : -(E : Int) ≤ A)
    (hA : A.toNat < 13176795 * 2 ^ 127 * d) :
    isFinite (withSign false (min (roundBits A.toNat d) 0x40490FDB)) = true ∧
    fmag (withSign false (min (roundBits A.toNat d) 0x40490FDB)) ≤ 13176795 * 2 ^ 127 ∧
    (fval (withSign false (min (roundBits A.toNat d) 0x40490FDB)) * (d : Int) - A).natAbs + E ≤
      ulpUnits ((A - E).toNat / d) * d := by
  generalize hn : A.toNat = n at *
  have hk : n / d < 13176795 * 2 ^ 127 := by rw [Nat.div_lt_iff_lt_mul hd]; exact hA
  set s := stepOf n d with hs
  set q := roundHalfEven n (d * 2 ^ s) with hq
  have hsig := significand_bounds n d
  have hmem := roundHalfEven_mem n (d * 2 ^ s)
  rw [← hs] at hsig
  rw [← hq] at hmem
  have hs127 : s ≤ 127 := by
    have : n / d < 2 ^ 151 := hk.trans (by norm_num)
    rw [hs]; unfold stepOf
    by_cases h0 : n / d = 0
    · rw [h0]; decide
    · have := (Nat.log2_lt h0).2 this
      omega
  have hq24 : q ≤ 2 ^ 24 := by omega
  have hbits : s * 2 ^ 23 + q ≤ 0x40490FDB := by
    by_cases h127 : s = 127
    · rw [h127] at hmem ⊢
      have : n / (d * 2 ^ 127) < 13176795 := by
        rw [Nat.div_lt_iff_lt_mul (by positivity)]
        calc n < 13176795 * 2 ^ 127 * d := hA
          _ = _ := by ring
      omega
    · have : s ≤ 126 := by omega
      have : s * 2 ^ 23 ≤ 126 * 2 ^ 23 := Nat.mul_le_mul_right _ this
      exact (Nat.add_le_add this hq24).trans (by decide)
  have hinf : s * 2 ^ 23 + q < infBits := by unfold infBits; omega
  have hrb : roundBits n d = s * 2 ^ 23 + q := by
    unfold roundBits; exact Nat.min_eq_left hinf.le
  rw [Nat.min_eq_left (by rw [hrb]; exact hbits)]
  have hfin : isFinite (withSign false (roundBits n d)) = true := (isFinite_roundBits_iff n d).2 hinf
  have herr := roundBits_error (neg := false) hd hinf
  have h31 : s * 2 ^ 23 + q < 2 ^ 31 := by unfold infBits at hinf; omega
  have hfm : fmag (withSign false (roundBits n d)) = q * 2 ^ s := fmag_roundBits hinf
  have hsgn : fsign (withSign false (roundBits n d)) = false := by rw [hrb]; exact fsign_withSign h31
  rw [hfm, ← hs] at herr
  refine ⟨hfin, ?_, ?_⟩
  · rw [hfm]
    by_cases h127 : s = 127
    · rw [h127]; apply Nat.mul_le_mul_right; rw [h127] at hbits; omega
    · calc q * 2 ^ s ≤ 2 ^ 24 * 2 ^ 126 := Nat.mul_le_mul hq24 (Nat.pow_le_pow_right (by decide) (by omega))
        _ ≤ _ := by norm_num
  have hfv : fval (withSign false (roundBits n d)) = (q * 2 ^ s : ℕ) := by simp [fval, hsgn, hfm]
  rw [hfv, ← Nat.cast_mul]
  set k' := (A - E).toNat / d with hk'
  have hu : 1 ≤ ulpUnits k' := Nat.one_le_two_pow
  have hud : 1 * d ≤ ulpUnits k' * d := Nat.mul_le_mul_right _ hu
  have hp : 1 * d ≤ 2 ^ s * d := Nat.mul_le_mul_right _ Nat.one_le_two_pow
  rw [Nat.mul_comm d] at herr
  by_cases hAneg : A < E
  · have h0 : n / d = 0 := Nat.div_eq_of_lt (by omega)
    have hs0 : s = 0 := by rw [hs]; unfold stepOf; rw [h0]; decide
    have hnd : n < d := by omega
    have hq0 : q = 0 := by
      rw [hs0] at herr
      by_contra hne
      have : 1 * d ≤ q * d := Nat.mul_le_mul_right _ (by omega)
      simp at herr
      omega
    rw [hq0]; simp
    omega
  · have hnA : (n : ℤ) = A := by omega
    have hkk : k' = (n - E) / d := by rw [hk']; congr 1; omega
    by_cases hcase : 2 ^ s ≤ ulpUnits k'
    · have h1 : 2 ^ s * d ≤ ulpUnits k' * d := Nat.mul_le_mul_right _ hcase
      generalize q * 2 ^ s * d = Q at *
      generalize 2 ^ s * d = D at *
      generalize ulpUnits k' * d = U at *
      omega
    · have hlt : k'.log2 < (n / d).log2 ∧ 23 < (n / d).log2 := by
        unfold ulpUnits at hcase
        have : k'.log2 - 23 < s := by
          by_contra h
          exact hcase (Nat.pow_le_pow_right (by decide) (by omega))
        rw [hs] at this; unfold stepOf at this
        omega
      have hk0 : n / d ≠ 0 := by intro h; rw [h] at hlt; simp at hlt
      have hj1 := Nat.log2_self_le hk0
      have hj2 : k' < 2 ^ (n / d).log2 := by
        by_cases h0 : k' = 0
        · rw [h0]; positivity
        · exact (Nat.log2_lt h0).1 hlt.1
      have hsj : 2 ^ (n / d).log2 = 2 ^ 23 * 2 ^ s := by rw [← Nat.pow_add]; congr 1; rw [hs]; unfold stepOf; omega
      rw [hsj] at hj1 hj2
      rw [hkk, Nat.div_lt_iff_lt_mul hd] at hj2
      rw [Nat.le_div_iff_mul_le hd] at hj1
      have hq23 : q = 2 ^ 23 := by
        have a1 : q * (2 ^ s * d) < (2 ^ 23 + 1) * (2 ^ s * d) := by
          have e1 : q * (2 ^ s*d) = q * 2 ^ s * d := by ring
          have e2 : (2 ^ 23+1) * (2 ^ s*d) = 2 ^ 23 * 2 ^ s * d + 2 ^ s * d := by ring
          rw [e1, e2]
          generalize q * 2 ^ s * d = Q at *
          generalize 2 ^ 23 * 2 ^ s * d = P at *
          omega
        have := Nat.lt_of_mul_lt_mul_right a1
        have := hsig.2 (by rw [hs]; unfold stepOf; omega)
        omega
      rw [hq23]
      generalize 2 ^ 23 * 2 ^ s * d = P at *
      omega

/-- The nearest value is admitted, where the angle is not above pi32: ARG_EXACT always has a value to take. -/
theorem argNearest_admitted {A : Int} (hlo : -(angleError : Int) ≤ A)
    (hA : A.toNat < 13176795 * 2 ^ 127 * 2 ^ unitBits) : argAdmits A (argNearest A) = true := by
  have hpi : fmag pi32 = 13176795 * 2 ^ 127 := by decide +kernel
  have hE : 16 * angleError ≤ 2 ^ unitBits := by
    unfold angleError
    rw [show (16 : Nat) = 2 ^ 4 by rfl, ← Nat.pow_add]
    exact Nat.pow_le_pow_right (by decide) (by decide)
  have h := nearest_within (d := 2 ^ unitBits) (Nat.pow_pos (by decide)) hE hlo hA
  unfold argAdmits argNearest
  rw [hpi]
  rw [Nat.cast_pow, Nat.cast_ofNat] at h
  rw [h.1, decide_eq_true h.2.1, decide_eq_true h.2.2]
  rfl

end Sys2Proof.Machine
end

