-- ==== Sys2Proof/Laws/Decode.lean ====
section
/-! SUPPORT. The small lemmas of descriptors and command words. -/

namespace Sys2Proof

/-- The W field of a descriptor made from its fields. -/
@[simp] theorem descWrite_mkDesc (w : Bool) (o : Offset) : descWrite (mkDesc w o) = w := by
  have hk : (0x8000#16).getLsbD 15 = true := by decide
  cases w
  · simp [descWrite, mkDesc]
  · simp only [descWrite, mkDesc, if_true, BitVec.getLsbD_or, hk, Bool.true_or]

/-- The reserved bits of a descriptor made from its fields are 0. -/
@[simp] theorem descReserved_mkDesc (w : Bool) (o : Offset) : descReserved (mkDesc w o) = 0#3 := by
  apply BitVec.eq_of_getLsbD_eq
  intro i hi
  have hk : ∀ j < 3, (0x8000#16).getLsbD (12 + j) = false := by decide
  cases w <;> simp [descReserved, mkDesc, hi, hk i hi]

/-- The OFF field of a descriptor made from its fields. -/
@[simp] theorem descOff_mkDesc (w : Bool) (o : Offset) : descOff (mkDesc w o) = o := by
  apply BitVec.eq_of_getLsbD_eq
  intro i hi
  have hk : ∀ j < 12, (0x8000#16).getLsbD j = false := by decide
  cases w <;> simp [descOff, mkDesc, hi, hk i hi] <;> omega

@[simp] theorem fullAccess_desc (d : BitVec 16) (v : Word) : (fullAccess d v).desc = d := rfl
@[simp] theorem fullAccess_data (d : BitVec 16) (v : Word) : (fullAccess d v).data = v := rfl
@[simp] theorem fullAccess_width (d : BitVec 16) (v : Word) : (fullAccess d v).width = .w32 := rfl
@[simp] theorem fullAccess_lanes (d : BitVec 16) (v : Word) : (fullAccess d v).lanes = 0xF#4 := rfl

/-- The offsets of the reads are exactly the mapped ones. -/
theorem readTable_offsets : readTable.map Prod.fst = (List.range 20).map fun k => BitVec.ofNat 12 (4 * k) := by decide

/-- No two rows of the read map have one offset. -/
theorem readTable_nodup : (readTable.map Prod.fst).Nodup := by decide

/-- The write map has the offsets of the read map. -/
theorem writeTable_offsets (v : Word) : (writeTable v).map Prod.fst = readTable.map Prod.fst := rfl

end Sys2Proof
end

