-- ==== Sys2Proof/Laws/State.lean ====
section
/-! SUPPORT. One lemma per field for each named update of State, each true by rfl, so that no proof unfolds a record
update. -/

namespace Sys2Proof.Machine

/-! ### raiseFault -/

@[simp] theorem raiseFault_ctrl (c : ErrCode) (w : Word) (s : State) : (raiseFault c w s).ctrl = s.ctrl := rfl
@[simp] theorem raiseFault_decimN (c : ErrCode) (w : Word) (s : State) : (raiseFault c w s).decimN = s.decimN := rfl
@[simp] theorem raiseFault_boxN (c : ErrCode) (w : Word) (s : State) : (raiseFault c w s).boxN = s.boxN := rfl
@[simp] theorem raiseFault_deemphD (c : ErrCode) (w : Word) (s : State) : (raiseFault c w s).deemphD = s.deemphD := rfl
@[simp] theorem raiseFault_scale (c : ErrCode) (w : Word) (s : State) : (raiseFault c w s).scale = s.scale := rfl
@[simp] theorem raiseFault_mode (c : ErrCode) (w : Word) (s : State) : (raiseFault c w s).mode = .fault := rfl
@[simp] theorem raiseFault_err (c : ErrCode) (w : Word) (s : State) : (raiseFault c w s).err = c := rfl
@[simp] theorem raiseFault_errCmd (c : ErrCode) (w : Word) (s : State) : (raiseFault c w s).errCmd = w := rfl
@[simp] theorem raiseFault_pairCount (c : ErrCode) (w : Word) (s : State) : (raiseFault c w s).pairCount = s.pairCount := rfl
@[simp] theorem raiseFault_pcmCount (c : ErrCode) (w : Word) (s : State) : (raiseFault c w s).pcmCount = s.pcmCount := rfl
@[simp] theorem raiseFault_blockCount (c : ErrCode) (w : Word) (s : State) : (raiseFault c w s).blockCount = s.blockCount := rfl
@[simp] theorem raiseFault_si (c : ErrCode) (w : Word) (s : State) : (raiseFault c w s).si = s.si := rfl
@[simp] theorem raiseFault_sq (c : ErrCode) (w : Word) (s : State) : (raiseFault c w s).sq = s.sq := rfl
@[simp] theorem raiseFault_bi (c : ErrCode) (w : Word) (s : State) : (raiseFault c w s).bi = s.bi := rfl
@[simp] theorem raiseFault_bq (c : ErrCode) (w : Word) (s : State) : (raiseFault c w s).bq = s.bq := rfl
@[simp] theorem raiseFault_disc (c : ErrCode) (w : Word) (s : State) : (raiseFault c w s).disc = s.disc := rfl
@[simp] theorem raiseFault_dec (c : ErrCode) (w : Word) (s : State) : (raiseFault c w s).dec = s.dec := rfl
@[simp] theorem raiseFault_de (c : ErrCode) (w : Word) (s : State) : (raiseFault c w s).de = s.de := rfl
@[simp] theorem raiseFault_buf (c : ErrCode) (w : Word) (s : State) : (raiseFault c w s).buf = s.buf := rfl
@[simp] theorem raiseFault_held (c : ErrCode) (w : Word) (s : State) : (raiseFault c w s).held = s.held := rfl
@[simp] theorem raiseFault_sinkLog (c : ErrCode) (w : Word) (s : State) : (raiseFault c w s).sinkLog = s.sinkLog := rfl
@[simp] theorem raiseFault_reads (c : ErrCode) (w : Word) (s : State) : (raiseFault c w s).reads = s.reads := rfl
@[simp] theorem raiseFault_hostQueue (c : ErrCode) (w : Word) (s : State) : (raiseFault c w s).hostQueue = s.hostQueue := rfl
@[simp] theorem raiseFault_schedule (c : ErrCode) (w : Word) (s : State) : (raiseFault c w s).schedule = s.schedule := rfl

/-! ### returnRead -/

@[simp] theorem returnRead_ctrl (v : Word) (s : State) : (returnRead v s).ctrl = s.ctrl := rfl
@[simp] theorem returnRead_decimN (v : Word) (s : State) : (returnRead v s).decimN = s.decimN := rfl
@[simp] theorem returnRead_boxN (v : Word) (s : State) : (returnRead v s).boxN = s.boxN := rfl
@[simp] theorem returnRead_deemphD (v : Word) (s : State) : (returnRead v s).deemphD = s.deemphD := rfl
@[simp] theorem returnRead_scale (v : Word) (s : State) : (returnRead v s).scale = s.scale := rfl
@[simp] theorem returnRead_mode (v : Word) (s : State) : (returnRead v s).mode = s.mode := rfl
@[simp] theorem returnRead_err (v : Word) (s : State) : (returnRead v s).err = s.err := rfl
@[simp] theorem returnRead_errCmd (v : Word) (s : State) : (returnRead v s).errCmd = s.errCmd := rfl
@[simp] theorem returnRead_pairCount (v : Word) (s : State) : (returnRead v s).pairCount = s.pairCount := rfl
@[simp] theorem returnRead_pcmCount (v : Word) (s : State) : (returnRead v s).pcmCount = s.pcmCount := rfl
@[simp] theorem returnRead_blockCount (v : Word) (s : State) : (returnRead v s).blockCount = s.blockCount := rfl
@[simp] theorem returnRead_si (v : Word) (s : State) : (returnRead v s).si = s.si := rfl
@[simp] theorem returnRead_sq (v : Word) (s : State) : (returnRead v s).sq = s.sq := rfl
@[simp] theorem returnRead_bi (v : Word) (s : State) : (returnRead v s).bi = s.bi := rfl
@[simp] theorem returnRead_bq (v : Word) (s : State) : (returnRead v s).bq = s.bq := rfl
@[simp] theorem returnRead_disc (v : Word) (s : State) : (returnRead v s).disc = s.disc := rfl
@[simp] theorem returnRead_dec (v : Word) (s : State) : (returnRead v s).dec = s.dec := rfl
@[simp] theorem returnRead_de (v : Word) (s : State) : (returnRead v s).de = s.de := rfl
@[simp] theorem returnRead_buf (v : Word) (s : State) : (returnRead v s).buf = s.buf := rfl
@[simp] theorem returnRead_held (v : Word) (s : State) : (returnRead v s).held = s.held := rfl
@[simp] theorem returnRead_sinkLog (v : Word) (s : State) : (returnRead v s).sinkLog = s.sinkLog := rfl
@[simp] theorem returnRead_reads (v : Word) (s : State) : (returnRead v s).reads = s.reads ++ [v] := rfl
@[simp] theorem returnRead_hostQueue (v : Word) (s : State) : (returnRead v s).hostQueue = s.hostQueue := rfl
@[simp] theorem returnRead_schedule (v : Word) (s : State) : (returnRead v s).schedule = s.schedule := rfl

/-! ### resetAction -/

@[simp] theorem resetAction_ctrl (s : State) : (resetAction s).ctrl = State.reset.ctrl := rfl
@[simp] theorem resetAction_decimN (s : State) : (resetAction s).decimN = State.reset.decimN := rfl
@[simp] theorem resetAction_boxN (s : State) : (resetAction s).boxN = State.reset.boxN := rfl
@[simp] theorem resetAction_deemphD (s : State) : (resetAction s).deemphD = State.reset.deemphD := rfl
@[simp] theorem resetAction_scale (s : State) : (resetAction s).scale = State.reset.scale := rfl
@[simp] theorem resetAction_mode (s : State) : (resetAction s).mode = State.reset.mode := rfl
@[simp] theorem resetAction_err (s : State) : (resetAction s).err = State.reset.err := rfl
@[simp] theorem resetAction_errCmd (s : State) : (resetAction s).errCmd = State.reset.errCmd := rfl
@[simp] theorem resetAction_pairCount (s : State) : (resetAction s).pairCount = State.reset.pairCount := rfl
@[simp] theorem resetAction_pcmCount (s : State) : (resetAction s).pcmCount = State.reset.pcmCount := rfl
@[simp] theorem resetAction_blockCount (s : State) : (resetAction s).blockCount = State.reset.blockCount := rfl
@[simp] theorem resetAction_si (s : State) : (resetAction s).si = State.reset.si := rfl
@[simp] theorem resetAction_sq (s : State) : (resetAction s).sq = State.reset.sq := rfl
@[simp] theorem resetAction_bi (s : State) : (resetAction s).bi = State.reset.bi := rfl
@[simp] theorem resetAction_bq (s : State) : (resetAction s).bq = State.reset.bq := rfl
@[simp] theorem resetAction_disc (s : State) : (resetAction s).disc = State.reset.disc := rfl
@[simp] theorem resetAction_dec (s : State) : (resetAction s).dec = State.reset.dec := rfl
@[simp] theorem resetAction_de (s : State) : (resetAction s).de = State.reset.de := rfl
@[simp] theorem resetAction_buf (s : State) : (resetAction s).buf = State.reset.buf := rfl
@[simp] theorem resetAction_held (s : State) : (resetAction s).held = s.held := rfl
@[simp] theorem resetAction_sinkLog (s : State) : (resetAction s).sinkLog = s.sinkLog := rfl
@[simp] theorem resetAction_reads (s : State) : (resetAction s).reads = s.reads := rfl
@[simp] theorem resetAction_hostQueue (s : State) : (resetAction s).hostQueue = s.hostQueue := rfl
@[simp] theorem resetAction_schedule (s : State) : (resetAction s).schedule = s.schedule := rfl

/-! ### hwReset -/

@[simp] theorem hwReset_ctrl (s : State) : (hwReset s).ctrl = State.reset.ctrl := rfl
@[simp] theorem hwReset_decimN (s : State) : (hwReset s).decimN = State.reset.decimN := rfl
@[simp] theorem hwReset_boxN (s : State) : (hwReset s).boxN = State.reset.boxN := rfl
@[simp] theorem hwReset_deemphD (s : State) : (hwReset s).deemphD = State.reset.deemphD := rfl
@[simp] theorem hwReset_scale (s : State) : (hwReset s).scale = State.reset.scale := rfl
@[simp] theorem hwReset_mode (s : State) : (hwReset s).mode = State.reset.mode := rfl
@[simp] theorem hwReset_err (s : State) : (hwReset s).err = State.reset.err := rfl
@[simp] theorem hwReset_errCmd (s : State) : (hwReset s).errCmd = State.reset.errCmd := rfl
@[simp] theorem hwReset_pairCount (s : State) : (hwReset s).pairCount = State.reset.pairCount := rfl
@[simp] theorem hwReset_pcmCount (s : State) : (hwReset s).pcmCount = State.reset.pcmCount := rfl
@[simp] theorem hwReset_blockCount (s : State) : (hwReset s).blockCount = State.reset.blockCount := rfl
@[simp] theorem hwReset_si (s : State) : (hwReset s).si = State.reset.si := rfl
@[simp] theorem hwReset_sq (s : State) : (hwReset s).sq = State.reset.sq := rfl
@[simp] theorem hwReset_bi (s : State) : (hwReset s).bi = State.reset.bi := rfl
@[simp] theorem hwReset_bq (s : State) : (hwReset s).bq = State.reset.bq := rfl
@[simp] theorem hwReset_disc (s : State) : (hwReset s).disc = State.reset.disc := rfl
@[simp] theorem hwReset_dec (s : State) : (hwReset s).dec = State.reset.dec := rfl
@[simp] theorem hwReset_de (s : State) : (hwReset s).de = State.reset.de := rfl
@[simp] theorem hwReset_buf (s : State) : (hwReset s).buf = State.reset.buf := rfl
@[simp] theorem hwReset_held (s : State) : (hwReset s).held = none := rfl
@[simp] theorem hwReset_sinkLog (s : State) : (hwReset s).sinkLog = s.sinkLog := rfl
@[simp] theorem hwReset_reads (s : State) : (hwReset s).reads = s.reads := rfl
@[simp] theorem hwReset_hostQueue (s : State) : (hwReset s).hostQueue = s.hostQueue := rfl
@[simp] theorem hwReset_schedule (s : State) : (hwReset s).schedule = s.schedule := rfl

/-! ### constructInit -/

@[simp] theorem constructInit_ctrl (s : State) : (constructInit s).ctrl = s.ctrl := rfl
@[simp] theorem constructInit_decimN (s : State) : (constructInit s).decimN = s.decimN := rfl
@[simp] theorem constructInit_boxN (s : State) : (constructInit s).boxN = s.boxN := rfl
@[simp] theorem constructInit_deemphD (s : State) : (constructInit s).deemphD = s.deemphD := rfl
@[simp] theorem constructInit_scale (s : State) : (constructInit s).scale = s.scale := rfl
@[simp] theorem constructInit_mode (s : State) : (constructInit s).mode = .ready := rfl
@[simp] theorem constructInit_err (s : State) : (constructInit s).err = s.err := rfl
@[simp] theorem constructInit_errCmd (s : State) : (constructInit s).errCmd = s.errCmd := rfl
@[simp] theorem constructInit_pairCount (s : State) : (constructInit s).pairCount = 0#32 := rfl
@[simp] theorem constructInit_pcmCount (s : State) : (constructInit s).pcmCount = 0#32 := rfl
@[simp] theorem constructInit_blockCount (s : State) : (constructInit s).blockCount = 0#32 := rfl
@[simp] theorem constructInit_si (s : State) : (constructInit s).si = Iir.zero Config.ntaps := rfl
@[simp] theorem constructInit_sq (s : State) : (constructInit s).sq = Iir.zero Config.ntaps := rfl
@[simp] theorem constructInit_bi (s : State) : (constructInit s).bi = Box.zero := rfl
@[simp] theorem constructInit_bq (s : State) : (constructInit s).bq = Box.zero := rfl
@[simp] theorem constructInit_disc (s : State) : (constructInit s).disc = Disc.initial := rfl
@[simp] theorem constructInit_dec (s : State) : (constructInit s).dec = Decim.initial := rfl
@[simp] theorem constructInit_de (s : State) : (constructInit s).de = deemphInit s.deemphD := rfl
@[simp] theorem constructInit_buf (s : State) : (constructInit s).buf = [] := rfl
@[simp] theorem constructInit_held (s : State) : (constructInit s).held = s.held := rfl
@[simp] theorem constructInit_sinkLog (s : State) : (constructInit s).sinkLog = s.sinkLog := rfl
@[simp] theorem constructInit_reads (s : State) : (constructInit s).reads = s.reads := rfl
@[simp] theorem constructInit_hostQueue (s : State) : (constructInit s).hostQueue = s.hostQueue := rfl
@[simp] theorem constructInit_schedule (s : State) : (constructInit s).schedule = s.schedule := rfl

/-! ### discriminate -/

@[simp] theorem discriminate_ctrl (np : NormPoint) (s : State) : (discriminate np s).ctrl = s.ctrl := rfl
@[simp] theorem discriminate_decimN (np : NormPoint) (s : State) : (discriminate np s).decimN = s.decimN := rfl
@[simp] theorem discriminate_boxN (np : NormPoint) (s : State) : (discriminate np s).boxN = s.boxN := rfl
@[simp] theorem discriminate_deemphD (np : NormPoint) (s : State) : (discriminate np s).deemphD = s.deemphD := rfl
@[simp] theorem discriminate_scale (np : NormPoint) (s : State) : (discriminate np s).scale = s.scale := rfl
@[simp] theorem discriminate_mode (np : NormPoint) (s : State) : (discriminate np s).mode = s.mode := rfl
@[simp] theorem discriminate_err (np : NormPoint) (s : State) : (discriminate np s).err = s.err := rfl
@[simp] theorem discriminate_errCmd (np : NormPoint) (s : State) : (discriminate np s).errCmd = s.errCmd := rfl
@[simp] theorem discriminate_pairCount (np : NormPoint) (s : State) : (discriminate np s).pairCount = s.pairCount := rfl
@[simp] theorem discriminate_pcmCount (np : NormPoint) (s : State) : (discriminate np s).pcmCount = s.pcmCount := rfl
@[simp] theorem discriminate_blockCount (np : NormPoint) (s : State) : (discriminate np s).blockCount = s.blockCount := rfl
@[simp] theorem discriminate_si (np : NormPoint) (s : State) : (discriminate np s).si = s.si := rfl
@[simp] theorem discriminate_sq (np : NormPoint) (s : State) : (discriminate np s).sq = s.sq := rfl
@[simp] theorem discriminate_bi (np : NormPoint) (s : State) : (discriminate np s).bi = s.bi := rfl
@[simp] theorem discriminate_bq (np : NormPoint) (s : State) : (discriminate np s).bq = s.bq := rfl
@[simp] theorem discriminate_disc (np : NormPoint) (s : State) : (discriminate np s).disc = discIn np s.ctrl.argsel s.disc (smoothI s) (smoothQ s) := rfl
@[simp] theorem discriminate_dec (np : NormPoint) (s : State) : (discriminate np s).dec = s.dec := rfl
@[simp] theorem discriminate_de (np : NormPoint) (s : State) : (discriminate np s).de = s.de := rfl
@[simp] theorem discriminate_buf (np : NormPoint) (s : State) : (discriminate np s).buf = s.buf := rfl
@[simp] theorem discriminate_held (np : NormPoint) (s : State) : (discriminate np s).held = s.held := rfl
@[simp] theorem discriminate_sinkLog (np : NormPoint) (s : State) : (discriminate np s).sinkLog = s.sinkLog := rfl
@[simp] theorem discriminate_reads (np : NormPoint) (s : State) : (discriminate np s).reads = s.reads := rfl
@[simp] theorem discriminate_hostQueue (np : NormPoint) (s : State) : (discriminate np s).hostQueue = s.hostQueue := rfl
@[simp] theorem discriminate_schedule (np : NormPoint) (s : State) : (discriminate np s).schedule = s.schedule := rfl

/-! ### decimate -/

@[simp] theorem decimate_ctrl (s : State) : (decimate s).ctrl = s.ctrl := rfl
@[simp] theorem decimate_decimN (s : State) : (decimate s).decimN = s.decimN := rfl
@[simp] theorem decimate_boxN (s : State) : (decimate s).boxN = s.boxN := rfl
@[simp] theorem decimate_deemphD (s : State) : (decimate s).deemphD = s.deemphD := rfl
@[simp] theorem decimate_scale (s : State) : (decimate s).scale = s.scale := rfl
@[simp] theorem decimate_mode (s : State) : (decimate s).mode = s.mode := rfl
@[simp] theorem decimate_err (s : State) : (decimate s).err = s.err := rfl
@[simp] theorem decimate_errCmd (s : State) : (decimate s).errCmd = s.errCmd := rfl
@[simp] theorem decimate_pairCount (s : State) : (decimate s).pairCount = s.pairCount + 1#32 := rfl
@[simp] theorem decimate_pcmCount (s : State) : (decimate s).pcmCount = s.pcmCount := rfl
@[simp] theorem decimate_blockCount (s : State) : (decimate s).blockCount = s.blockCount := rfl
@[simp] theorem decimate_si (s : State) : (decimate s).si = s.si := rfl
@[simp] theorem decimate_sq (s : State) : (decimate s).sq = s.sq := rfl
@[simp] theorem decimate_bi (s : State) : (decimate s).bi = s.bi := rfl
@[simp] theorem decimate_bq (s : State) : (decimate s).bq = s.bq := rfl
@[simp] theorem decimate_disc (s : State) : (decimate s).disc = s.disc := rfl
@[simp] theorem decimate_dec (s : State) : (decimate s).dec = decIn s.decimN s.dec s.disc.out := rfl
@[simp] theorem decimate_de (s : State) : (decimate s).de = s.de := rfl
@[simp] theorem decimate_buf (s : State) : (decimate s).buf = s.buf := rfl
@[simp] theorem decimate_held (s : State) : (decimate s).held = s.held := rfl
@[simp] theorem decimate_sinkLog (s : State) : (decimate s).sinkLog = s.sinkLog := rfl
@[simp] theorem decimate_reads (s : State) : (decimate s).reads = s.reads := rfl
@[simp] theorem decimate_hostQueue (s : State) : (decimate s).hostQueue = s.hostQueue := rfl
@[simp] theorem decimate_schedule (s : State) : (decimate s).schedule = s.schedule := rfl

/-! ### placeNext -/

@[simp] theorem placeNext_ctrl (t : Transaction) (s : State) : (placeNext t s).ctrl = s.ctrl := rfl
@[simp] theorem placeNext_decimN (t : Transaction) (s : State) : (placeNext t s).decimN = s.decimN := rfl
@[simp] theorem placeNext_boxN (t : Transaction) (s : State) : (placeNext t s).boxN = s.boxN := rfl
@[simp] theorem placeNext_deemphD (t : Transaction) (s : State) : (placeNext t s).deemphD = s.deemphD := rfl
@[simp] theorem placeNext_scale (t : Transaction) (s : State) : (placeNext t s).scale = s.scale := rfl
@[simp] theorem placeNext_mode (t : Transaction) (s : State) : (placeNext t s).mode = s.mode := rfl
@[simp] theorem placeNext_err (t : Transaction) (s : State) : (placeNext t s).err = s.err := rfl
@[simp] theorem placeNext_errCmd (t : Transaction) (s : State) : (placeNext t s).errCmd = s.errCmd := rfl
@[simp] theorem placeNext_pairCount (t : Transaction) (s : State) : (placeNext t s).pairCount = s.pairCount := rfl
@[simp] theorem placeNext_pcmCount (t : Transaction) (s : State) : (placeNext t s).pcmCount = s.pcmCount := rfl
@[simp] theorem placeNext_blockCount (t : Transaction) (s : State) : (placeNext t s).blockCount = s.blockCount := rfl
@[simp] theorem placeNext_si (t : Transaction) (s : State) : (placeNext t s).si = s.si := rfl
@[simp] theorem placeNext_sq (t : Transaction) (s : State) : (placeNext t s).sq = s.sq := rfl
@[simp] theorem placeNext_bi (t : Transaction) (s : State) : (placeNext t s).bi = s.bi := rfl
@[simp] theorem placeNext_bq (t : Transaction) (s : State) : (placeNext t s).bq = s.bq := rfl
@[simp] theorem placeNext_disc (t : Transaction) (s : State) : (placeNext t s).disc = s.disc := rfl
@[simp] theorem placeNext_dec (t : Transaction) (s : State) : (placeNext t s).dec = s.dec := rfl
@[simp] theorem placeNext_de (t : Transaction) (s : State) : (placeNext t s).de = s.de := rfl
@[simp] theorem placeNext_buf (t : Transaction) (s : State) : (placeNext t s).buf = s.buf := rfl
@[simp] theorem placeNext_held (t : Transaction) (s : State) : (placeNext t s).held = none := rfl
@[simp] theorem placeNext_sinkLog (t : Transaction) (s : State) : (placeNext t s).sinkLog = s.sinkLog := rfl
@[simp] theorem placeNext_reads (t : Transaction) (s : State) : (placeNext t s).reads = s.reads := rfl
@[simp] theorem placeNext_hostQueue (t : Transaction) (s : State) : (placeNext t s).hostQueue = t :: s.hostQueue := rfl
@[simp] theorem placeNext_schedule (t : Transaction) (s : State) : (placeNext t s).schedule = .host :: s.schedule := rfl

/-! ### smooth, whose two arms touch two fields each -/

@[simp] theorem smooth_ctrl (u v : F32) (s : State) : (smooth u v s).ctrl = s.ctrl := by
  unfold smooth; cases s.ctrl.smooth <;> rfl
@[simp] theorem smooth_decimN (u v : F32) (s : State) : (smooth u v s).decimN = s.decimN := by
  unfold smooth; cases s.ctrl.smooth <;> rfl
@[simp] theorem smooth_boxN (u v : F32) (s : State) : (smooth u v s).boxN = s.boxN := by
  unfold smooth; cases s.ctrl.smooth <;> rfl
@[simp] theorem smooth_deemphD (u v : F32) (s : State) : (smooth u v s).deemphD = s.deemphD := by
  unfold smooth; cases s.ctrl.smooth <;> rfl
@[simp] theorem smooth_scale (u v : F32) (s : State) : (smooth u v s).scale = s.scale := by
  unfold smooth; cases s.ctrl.smooth <;> rfl
@[simp] theorem smooth_mode (u v : F32) (s : State) : (smooth u v s).mode = s.mode := by
  unfold smooth; cases s.ctrl.smooth <;> rfl
@[simp] theorem smooth_err (u v : F32) (s : State) : (smooth u v s).err = s.err := by
  unfold smooth; cases s.ctrl.smooth <;> rfl
@[simp] theorem smooth_errCmd (u v : F32) (s : State) : (smooth u v s).errCmd = s.errCmd := by
  unfold smooth; cases s.ctrl.smooth <;> rfl
@[simp] theorem smooth_pairCount (u v : F32) (s : State) : (smooth u v s).pairCount = s.pairCount := by
  unfold smooth; cases s.ctrl.smooth <;> rfl
@[simp] theorem smooth_pcmCount (u v : F32) (s : State) : (smooth u v s).pcmCount = s.pcmCount := by
  unfold smooth; cases s.ctrl.smooth <;> rfl
@[simp] theorem smooth_blockCount (u v : F32) (s : State) : (smooth u v s).blockCount = s.blockCount := by
  unfold smooth; cases s.ctrl.smooth <;> rfl
@[simp] theorem smooth_disc (u v : F32) (s : State) : (smooth u v s).disc = s.disc := by
  unfold smooth; cases s.ctrl.smooth <;> rfl
@[simp] theorem smooth_dec (u v : F32) (s : State) : (smooth u v s).dec = s.dec := by
  unfold smooth; cases s.ctrl.smooth <;> rfl
@[simp] theorem smooth_de (u v : F32) (s : State) : (smooth u v s).de = s.de := by
  unfold smooth; cases s.ctrl.smooth <;> rfl
@[simp] theorem smooth_buf (u v : F32) (s : State) : (smooth u v s).buf = s.buf := by
  unfold smooth; cases s.ctrl.smooth <;> rfl
@[simp] theorem smooth_held (u v : F32) (s : State) : (smooth u v s).held = s.held := by
  unfold smooth; cases s.ctrl.smooth <;> rfl
@[simp] theorem smooth_sinkLog (u v : F32) (s : State) : (smooth u v s).sinkLog = s.sinkLog := by
  unfold smooth; cases s.ctrl.smooth <;> rfl
@[simp] theorem smooth_reads (u v : F32) (s : State) : (smooth u v s).reads = s.reads := by
  unfold smooth; cases s.ctrl.smooth <;> rfl
@[simp] theorem smooth_hostQueue (u v : F32) (s : State) : (smooth u v s).hostQueue = s.hostQueue := by
  unfold smooth; cases s.ctrl.smooth <;> rfl
@[simp] theorem smooth_schedule (u v : F32) (s : State) : (smooth u v s).schedule = s.schedule := by
  unfold smooth; cases s.ctrl.smooth <;> rfl

/-! ### The state after reset -/

@[simp] theorem reset_mode : State.reset.mode = .unconf := rfl
@[simp] theorem reset_err : State.reset.err = .none := rfl
@[simp] theorem reset_errCmd : State.reset.errCmd = 0#32 := rfl
@[simp] theorem reset_decimN : State.reset.decimN = 20#16 := rfl
@[simp] theorem reset_boxN : State.reset.boxN = 1#16 := rfl
@[simp] theorem reset_deemphD : State.reset.deemphD = posZero := rfl
@[simp] theorem reset_scale : State.reset.scale = 0x461C4000#32 := rfl
@[simp] theorem reset_pairCount : State.reset.pairCount = 0#32 := rfl
@[simp] theorem reset_pcmCount : State.reset.pcmCount = 0#32 := rfl
@[simp] theorem reset_blockCount : State.reset.blockCount = 0#32 := rfl
@[simp] theorem reset_buf : State.reset.buf = [] := rfl
@[simp] theorem reset_held : State.reset.held = none := rfl
@[simp] theorem reset_si : State.reset.si = Iir.zero Config.ntaps := rfl
@[simp] theorem reset_sq : State.reset.sq = Iir.zero Config.ntaps := rfl
@[simp] theorem reset_bi : State.reset.bi = Box.zero := rfl
@[simp] theorem reset_bq : State.reset.bq = Box.zero := rfl
@[simp] theorem reset_disc : State.reset.disc = Disc.initial := rfl
@[simp] theorem reset_dec : State.reset.dec = Decim.initial := rfl
@[simp] theorem reset_sinkLog : State.reset.sinkLog = [] := rfl
@[simp] theorem reset_reads : State.reset.reads = [] := rfl
@[simp] theorem reset_hostQueue : State.reset.hostQueue = [] := rfl
@[simp] theorem reset_schedule : State.reset.schedule = [] := rfl
@[simp] theorem reset_smooth : State.reset.ctrl.smooth = .recursive := rfl
@[simp] theorem reset_argsel : State.reset.ctrl.argsel = .exact := rfl

end Sys2Proof.Machine
end

