-- ==== Sys2Proof/Laws/Entry.lean ====
section
/-! SUPPORT. The clean-entry states of 70_reset_and_hazards.md R312: which events lead to one, and what holds in each. -/

namespace Sys2Proof.Machine

/-- HW_RESET leads to the clean-entry state of a host program from every state (R300, R312). -/
theorem resetEntry_hwReset (s : State) : resetEntry (hwReset s) = true := by simp [resetEntry, hwReset, resetAction]

/-- The state after reset is a clean-entry state. -/
theorem resetEntry_reset : resetEntry State.reset = true := by simp [resetEntry, hwReset, resetAction, State.reset]

/-- A successful CONSTRUCT leads to the clean-entry state of its configuration (R212, R312). -/
theorem blockEntry_construct {s : State} (hc : constructCheck s = .none) (he : s.err = .none) (hw : s.errCmd = 0#32)
    (hh : s.held = none) : blockEntry s.configuration (construct s) = true := by
  have h : construct s = constructInit s := by simp [construct, hc]
  have hk : constructCheck (constructInit s) = .none := hc
  rw [h, blockEntry, decide_eq_true_iff]
  refine ⟨hk, ?_⟩
  simp [constructInit, hwReset, resetAction, State.configured, State.configuration, State.reset, he, hw, hh]

/-- A state is right after HW_RESET exactly when every register, unit and counter holds its value after reset and no
write is held. -/
theorem resetEntry_iff (s : State) : resetEntry s = true ↔ s = hwReset s := by simp [resetEntry]

/-- In a clean-entry state no fault is recorded, no block is pending and no write is held (R312). -/
theorem cleanEntry_quiet {s : State} (h : cleanEntry s = true) :
    (s.mode = .unconf ∨ s.mode = .ready) ∧ s.err = .none ∧ s.errCmd = 0#32 ∧ s.buf = [] ∧ s.held = none := by
  rw [cleanEntry, Bool.or_eq_true, resetEntry_iff, blockEntry, decide_eq_true_iff] at h
  rcases h with h | ⟨-, h⟩ <;> rw [h] <;> simp [State.configured, constructInit, hwReset, resetAction, State.reset]

/-- A clean-entry state whose pipeline is constructed is right after CONSTRUCT: no block of a session has begun, every
unit and counter holds its initial value. -/
theorem cleanEntry_fresh {s : State} (h : cleanEntry s = true) :
    s.pairCount = 0#32 ∧ s.pcmCount = 0#32 ∧ s.blockCount = 0#32 ∧ s.disc = Disc.initial ∧ s.dec = Decim.initial ∧
      s.si = Iir.zero Config.ntaps ∧ s.sq = Iir.zero Config.ntaps ∧ s.bi = Box.zero ∧ s.bq = Box.zero := by
  rw [cleanEntry, Bool.or_eq_true, resetEntry_iff, blockEntry, decide_eq_true_iff] at h
  rcases h with h | ⟨-, h⟩ <;> rw [h] <;> simp [State.configured, constructInit, hwReset, resetAction, State.reset]

end Sys2Proof.Machine
end

