-- ==== Sys2Proof/Laws/Ops.lean ====
section
/-! SUPPORT. For each shared operation, once, everything it can do. -/

namespace Sys2Proof.Machine

/-- A write is held in FLUSH and takes its effect otherwise. -/
theorem issueWrite_cases (i : Instr) (e : State → State) (s : State) :
    (s.mode = .flush ∧ issueWrite i e s = { s with held := some i }) ∨ (s.mode ≠ .flush ∧ issueWrite i e s = e s) := by
  unfold issueWrite
  split
  · exact .inl ⟨‹_›, rfl⟩
  · exact .inr ⟨‹_›, rfl⟩

theorem issueWrite_flush {i : Instr} {e : State → State} {s : State} (h : s.mode = .flush) :
    issueWrite i e s = { s with held := some i } := if_pos h

theorem issueWrite_run {i : Instr} {e : State → State} {s : State} (h : s.mode ≠ .flush) :
    issueWrite i e s = e s := if_neg h

/-- A configuration write is ignored in FAULT, stored in UNCONF and a PROTOCOL fault elsewhere. -/
theorem configWrite_cases (off : Offset) (st : State → State) (s : State) :
    (s.mode = .fault ∧ configWrite off st s = s) ∨ (s.mode = .unconf ∧ configWrite off st s = st s) ∨
      ((s.mode = .ready ∨ s.mode = .inblock ∨ s.mode = .flush) ∧
        configWrite off st s = raiseFault .protocol (configFaultWord off) s) := by
  unfold configWrite
  cases h : s.mode <;> simp

/-- A command is ignored in FAULT, takes its effect where it is legal and is a PROTOCOL fault elsewhere. -/
theorem commandIn_cases (legal : Mode) (w : Word) (e : State → State) (s : State) :
    (s.mode = .fault ∧ commandIn legal w e s = s) ∨ (s.mode ≠ .fault ∧ s.mode = legal ∧ commandIn legal w e s = e s) ∨
      (s.mode ≠ .fault ∧ s.mode ≠ legal ∧ commandIn legal w e s = raiseFault .protocol w s) := by
  unfold commandIn
  split
  · exact .inl ⟨‹_›, rfl⟩
  · split
    · exact .inr (.inl ⟨‹_›, ‹_›, rfl⟩)
    · exact .inr (.inr ⟨‹_›, ‹_›, rfl⟩)

/-- EMIT appends one sample, or raises OUT_OVERFLOW on a full buffer; the de-emphasis filter advances either way. -/
theorem emit_cases (w : Word) (s : State) :
    (outLen s = Config.outbufDepth ∧
        emit w s = raiseFault .outOverflow w { s with de := deemphIn s.de s.dec.out }) ∨
      (outLen s ≠ Config.outbufDepth ∧
        emit w s = { s with
          de := deemphIn s.de s.dec.out
          buf := s.buf ++ [toPcm (fmul (deemphIn s.de s.dec.out).filt.out s.scale)]
          pcmCount := s.pcmCount + 1#32 }) := by
  unfold emit
  by_cases h : outLen s = Config.outbufDepth
  · exact .inl ⟨h, if_pos h⟩
  · exact .inr ⟨h, if_neg h⟩

/-- The pair step either ends with the decimator, or goes on to EMIT on a ready cycle. -/
theorem pairStep_cases (np : NormPoint) (ib qb : Byte) (w : Word) (s : State) :
    ((pairFront np ib qb s).dec.ready = false ∧ pairStep np ib qb w s = pairFront np ib qb s) ∨
      ((pairFront np ib qb s).dec.ready = true ∧ pairStep np ib qb w s = emit w (pairFront np ib qb s)) := by
  unfold pairStep
  cases h : (pairFront np ib qb s).dec.ready <;> simp [h]

/-- The decimator completes a window exactly when the counter it reaches is N. -/
theorem decIn_cases (n : BitVec 16) (d : Decim) (v : F32) :
    (d.cnt + 1#16 = n ∧
        decIn n d v = { sum := posZero, cnt := 0#16, ready := true, out := fdiv (fadd d.sum v) (f32 n.toNat) }) ∨
      (d.cnt + 1#16 ≠ n ∧
        decIn n d v = { sum := fadd d.sum v, cnt := d.cnt + 1#16, ready := false, out := d.out }) := by
  unfold decIn readyFlag
  by_cases h : d.cnt + 1#16 = n
  · exact .inl ⟨h, by simp [h]⟩
  · exact .inr ⟨h, by simp [h]⟩

/-- The Sink's acceptance delivers the pending block in FLUSH and is no step elsewhere. -/
theorem sinkAccept_cases (s : State) :
    (s.mode = .flush ∧ sinkAccept s =
        { s with sinkLog := s.sinkLog ++ [s.buf], buf := [], blockCount := s.blockCount + 1#32, mode := .ready }) ∨
      (s.mode ≠ .flush ∧ sinkAccept s = s) := by
  unfold sinkAccept
  split
  · exact .inl ⟨‹_›, rfl⟩
  · exact .inr ⟨‹_›, rfl⟩

/-- CONSTRUCT initialises everything, or raises the first failing check's fault and initialises nothing. -/
theorem construct_cases (s : State) :
    (constructCheck s = .none ∧ construct s = constructInit s) ∨
      (constructCheck s ≠ .none ∧ construct s = raiseFault (constructCheck s) 0x02000000#32 s) := by
  unfold construct
  cases h : constructCheck s <;> simp

/-- What a passed CONSTRUCT check says of the configuration. -/
theorem constructCheck_none_iff (s : State) :
    constructCheck s = .none ↔
      legalOrder s.ctrl.orderSel = true ∧ s.decimN ≠ 0#16 ∧
        (s.ctrl.smooth = .box → s.boxN ≠ 0#16 ∧ s.boxN.toNat ≤ Config.boxMax) := by
  unfold constructCheck
  cases hl : legalOrder s.ctrl.orderSel <;> cases hs : s.ctrl.smooth <;> by_cases hn : s.decimN = 0#16 <;>
    by_cases hb : s.boxN = 0#16 <;> by_cases hm : Config.boxMax < s.boxN.toNat <;> (simp [hn, hb, hm]; try omega)

/-- Steps 1 to 3 of the pair step leave everything but the smoothers, the discriminator, the decimator and
PAIR_COUNT. -/
theorem pairFront_frame (np : NormPoint) (ib qb : Byte) (s : State) :
    pairFront np ib qb s = { s with
      si := (pairFront np ib qb s).si, sq := (pairFront np ib qb s).sq
      bi := (pairFront np ib qb s).bi, bq := (pairFront np ib qb s).bq
      disc := (pairFront np ib qb s).disc, dec := (pairFront np ib qb s).dec
      pairCount := s.pairCount + 1#32 } := by
  unfold pairFront smooth
  cases s.ctrl.smooth <;> rfl

/-- The Host's step, the Sink's and the reset input's: everything one step can be. -/
theorem step_cases (s : State) :
    (s.schedule = [] ∧ step s = hostStep true s) ∨
      (∃ r, s.schedule = .host :: r ∧ step s = hostStep false { s with schedule := r }) ∨
      (∃ r, s.schedule = .sink :: r ∧ step s = .next (sinkAccept { s with schedule := r })) ∨
      (∃ r, s.schedule = .hwReset :: r ∧ step s = .next (hwReset { s with schedule := r })) := by
  unfold step agentStep
  rcases s.schedule with _ | ⟨a, r⟩
  · exact .inl ⟨rfl, rfl⟩
  · cases a
    · exact .inr (.inl ⟨r, rfl, rfl⟩)
    · exact .inr (.inr (.inl ⟨r, rfl, rfl⟩))
    · exact .inr (.inr (.inr ⟨r, rfl, rfl⟩))

/-- Where the Host's step answers a next state, it waited, had nothing to do, or executed the held write or the next
transaction's instruction. -/
theorem hostStep_next {x : Bool} {s t : State} (h : hostStep x s = .next t) :
    (s.mode = .flush ∧ s.held ≠ none ∧ t = s) ∨ (s.held = none ∧ s.hostQueue = [] ∧ t = s) ∨
      (∃ i, s.held = some i ∧ s.mode ≠ .flush ∧ exec i { s with held := none } = .next t) ∨
      (∃ q rest i, s.held = none ∧ s.hostQueue = q :: rest ∧ decode q = .ok i ∧
        exec i { s with hostQueue := rest } = .next t) := by
  unfold hostStep at h
  split at h
  · rename_i i hi
    split at h
    · rename_i hm
      split at h
      · cases h
      · cases h
        exact .inl ⟨hm, by simp [hi], rfl⟩
    · exact .inr (.inr (.inl ⟨i, hi, ‹_›, h⟩))
  · rename_i hn
    split at h
    · cases h
      exact .inr (.inl ⟨hn, ‹_›, rfl⟩)
    · rename_i q rest hq
      split at h
      · exact .inr (.inr (.inr ⟨q, rest, _, hn, hq, ‹_›, h⟩))
      · cases h

/-- The very next step after `placeNext` runs exactly that transaction, on the state it was placed in. -/
theorem step_placeNext {q : Transaction} {i : Instr} (h : decode q = .ok i) (s : State) :
    step (placeNext q s) = exec i { s with held := none } := by
  simp [step, agentStep, placeNext, hostStep, h]

end Sys2Proof.Machine
end

