-- ==== Sys2Proof/Laws/Exec.lean ====
section
/-! SUPPORT. Everything that executing one instruction can do to the state, said once. -/

namespace Sys2Proof.Machine

/-- The next states that `exec i` can answer from `s`, by what happens, with what then holds of `s`. -/
inductive Effect (i : Instr) (s : State) : State → Prop where
  /-- Nothing: a NOP, or a write that FAULT ignores. -/
  | same (hw : isWrite i = true) (hm : s.mode ≠ .flush) : Effect i s s
  /-- A read returns a value. -/
  | read (hr : isRead i = true) (v : Word) : Effect i s (returnRead v s)
  /-- A write is held in FLUSH. -/
  | hold (hw : isWrite i = true) (hm : s.mode = .flush) : Effect i s { s with held := some i }
  /-- A fault is entered. -/
  | fault (hw : isWrite i = true) (hm : s.mode ≠ .flush) (hf : s.mode ≠ .fault) (c : ErrCode) (info : Word)
      (hc : c ≠ .none) (hc' : c ≠ .outOverflow) : Effect i s (raiseFault c info s)
  /-- RESET. -/
  | reset (hw : isWrite i = true) (hm : s.mode ≠ .flush) : Effect i s (resetAction s)
  /-- CONSTRUCT, its checks passed. -/
  | construct (hw : isWrite i = true) (hm : s.mode = .unconf) (hc : constructCheck s = .none) :
      Effect i s (constructInit s)
  /-- BLOCK_BEGIN. -/
  | blockBegin (hw : isWrite i = true) (hm : s.mode = .ready) : Effect i s { s with mode := .inblock }
  /-- PAIR. -/
  | pair (hw : isWrite i = true) (hm : s.mode = .inblock) (ib qb : Byte) :
      Effect i s (pairStep Config.normPoint ib qb (pairWord ib qb) s)
  /-- BLOCK_END. -/
  | blockEnd (hw : isWrite i = true) (hm : s.mode = .inblock) : Effect i s { s with mode := .flush }
  /-- A configuration write. -/
  | config (hw : isWrite i = true) (hm : s.mode = .unconf) (c : Ctrl) (d b : BitVec 16) (e k : F32) :
      Effect i s { s with ctrl := c, decimN := d, boxN := b, deemphD := e, scale := k }

/-- A held or executed write is one of the effects, where its own effect is. -/
theorem Effect.ofIssue {i : Instr} {e : State → State} {s : State} (hw : isWrite i = true)
    (h : s.mode ≠ .flush → Effect i s (e s)) : Effect i s (issueWrite i e s) := by
  rcases issueWrite_cases i e s with ⟨hm, he⟩ | ⟨hm, he⟩ <;> rw [he]
  · exact .hold hw hm
  · exact h hm

/-- A command that is legal in one state is ignored, a PROTOCOL fault, or its own effect. -/
theorem Effect.ofCommand {i : Instr} {legal : Mode} {w : Word} {e : State → State} {s : State}
    (hw : isWrite i = true) (hm : s.mode ≠ .flush) (h : s.mode = legal → Effect i s (e s)) :
    Effect i s (commandIn legal w e s) := by
  rcases commandIn_cases legal w e s with ⟨-, he⟩ | ⟨-, hl, he⟩ | ⟨hf, -, he⟩ <;> rw [he]
  · exact .same hw hm
  · exact h hl
  · exact .fault hw hm hf _ _ (by decide) (by decide)

/-- Every command's effect is one of the list. -/
theorem Effect.ofCommandEffect {i : Instr} {s : State} (hw : isWrite i = true) (hm : s.mode ≠ .flush) (c : Command) :
    Effect i s (commandEffect c s) := by
  cases c with
  | nop => exact .same hw hm
  | reset => exact .reset hw hm
  | construct =>
    refine .ofCommand hw hm fun hl => ?_
    rcases construct_cases s with ⟨hc, he⟩ | ⟨hc, he⟩ <;> rw [he]
    · exact .construct hw hl hc
    · refine .fault hw hm (by simp [hl]) _ _ hc ?_
      unfold constructCheck
      repeat' split
      all_goals decide
  | blockBegin => exact .ofCommand (e := fun s => { s with mode := .inblock }) hw hm fun hl => .blockBegin hw hl
  | pair ib qb => exact .ofCommand hw hm fun hl => .pair hw hl ib qb
  | blockEnd => exact .ofCommand (e := fun s => { s with mode := .flush }) hw hm fun hl => .blockEnd hw hl
  | illegal w =>
    change Effect i s (if s.mode = .fault then s else raiseFault .illegalCmd w s)
    split
    · exact .same hw hm
    · exact .fault hw hm ‹_› _ _ (by decide) (by decide)

/-- A configuration write is ignored, a PROTOCOL fault, or stored. -/
theorem Effect.ofConfig {i : Instr} {off : Offset} {st : State → State} {s : State} (hw : isWrite i = true)
    (hm : s.mode ≠ .flush) (h : s.mode = .unconf → Effect i s (st s)) : Effect i s (configWrite off st s) := by
  rcases configWrite_cases off st s with ⟨-, he⟩ | ⟨hl, he⟩ | ⟨hl, he⟩ <;> rw [he]
  · exact .same hw hm
  · exact h hl
  · exact .fault hw hm (by rcases hl with h | h | h <;> simp [h]) _ _ (by decide) (by decide)

/-- Where executing an instruction answers a next state, that state is one of its effects. -/
theorem exec_effect {i : Instr} {s t : State} (h : exec i s = .next t) : Effect i s t := by
  cases i with
  | nop => cases h; exact .ofIssue rfl fun hm => .ofCommandEffect rfl hm .nop
  | reset => cases h; exact .ofIssue rfl fun hm => .ofCommandEffect rfl hm .reset
  | construct => cases h; exact .ofIssue rfl fun hm => .ofCommandEffect rfl hm .construct
  | blockBegin => cases h; exact .ofIssue rfl fun hm => .ofCommandEffect rfl hm .blockBegin
  | pair ib qb => cases h; exact .ofIssue rfl fun hm => .ofCommandEffect rfl hm (.pair ib qb)
  | blockEnd => cases h; exact .ofIssue rfl fun hm => .ofCommandEffect rfl hm .blockEnd
  | illegalCmd w => cases h; exact .ofIssue rfl fun hm => .ofCommandEffect rfl hm (.illegal w)
  | wrCmd v => cases h; exact .ofIssue rfl fun hm => .ofCommandEffect rfl hm (decodeCommand v)
  | wrCtrl v => cases h; exact .ofIssue rfl fun hm => .ofConfig rfl hm fun hl => .config rfl hl _ _ _ _ _
  | wrDecimN v => cases h; exact .ofIssue rfl fun hm => .ofConfig rfl hm fun hl => .config rfl hl _ _ _ _ _
  | wrBoxN v => cases h; exact .ofIssue rfl fun hm => .ofConfig rfl hm fun hl => .config rfl hl _ _ _ _ _
  | wrDeemphD v => cases h; exact .ofIssue rfl fun hm => .ofConfig rfl hm fun hl => .config rfl hl _ _ _ _ _
  | wrScale v => cases h; exact .ofIssue rfl fun hm => .ofConfig rfl hm fun hl => .config rfl hl _ _ _ _ _
  | wrId | wrStatus | wrErrCmd | wrOutCount | wrPairCount | wrPcmCount | wrBlockCount | wrDecimCnt | wrDbgSmoothI
  | wrDbgSmoothQ | wrDbgPhase | wrDbgDecimOut | wrDbgDeemphOut | wrCaps | busError => cases h
  | rdId | rdCtrl | rdDecimN | rdBoxN | rdDeemphD | rdScale | rdCmd | rdStatus | rdErrCmd | rdOutCount | rdPairCount
  | rdPcmCount | rdBlockCount | rdDecimCnt | rdDbgSmoothI | rdDbgSmoothQ | rdDbgPhase | rdDbgDecimOut
  | rdDbgDeemphOut | rdCaps => cases h; exact .read rfl _

end Sys2Proof.Machine
end

