-- ==== Sys2Proof/Laws/PerInstr.lean ====
section
/-! SUPPORT. Statements made per instruction, about the instruction as syntax. -/

namespace Sys2Proof

/-- No transaction that encodes a well-formed instruction has a bit set that its format reserves: the descriptor's
bits 14:12 are 0, and only a BUS_ERROR is of another shape than a 32-bit, all-lanes access (30_encoding.md R81,
20_memory.md R62). -/
def Laws.EncodedShape.Statement (i : Instr) : Prop :=
  i.wf = true →
    match encode i with
    | .cmd _ => True
    | .busacc a =>
      descReserved a.desc = 0#3 ∧
        ((∃ w o k l, i = .busError w o k l) ∨ (a.width = .w32 ∧ a.lanes = 0xF#4 ∧ mapped (descOff a.desc) = true))

namespace Laws.EncodedShape

/-- A 32-bit, all-lanes access at a mapped offset is of the common shape. -/
theorem full_shape (i : Instr) (w : Bool) (o : Offset) (v : Word) (h : mapped o = true) :
    descReserved (fullAccess (mkDesc w o) v).desc = 0#3 ∧
      ((∃ w' o' k l, i = .busError w' o' k l) ∨
        ((fullAccess (mkDesc w o) v).width = .w32 ∧ (fullAccess (mkDesc w o) v).lanes = 0xF#4 ∧
          mapped (descOff (fullAccess (mkDesc w o) v).desc) = true)) := by
  simp [h]

theorem nop : Statement .nop := fun _ => trivial
theorem reset : Statement .reset := fun _ => trivial
theorem construct : Statement .construct := fun _ => trivial
theorem blockBegin : Statement .blockBegin := fun _ => trivial
theorem pair (ib qb : Byte) : Statement (.pair ib qb) := fun _ => trivial
theorem blockEnd : Statement .blockEnd := fun _ => trivial
theorem wrCtrl (v : Word) : Statement (.wrCtrl v) := fun _ => full_shape _ _ _ _ (by decide)
theorem wrDecimN (v : Word) : Statement (.wrDecimN v) := fun _ => full_shape _ _ _ _ (by decide)
theorem wrBoxN (v : Word) : Statement (.wrBoxN v) := fun _ => full_shape _ _ _ _ (by decide)
theorem wrDeemphD (v : Word) : Statement (.wrDeemphD v) := fun _ => full_shape _ _ _ _ (by decide)
theorem wrScale (v : Word) : Statement (.wrScale v) := fun _ => full_shape _ _ _ _ (by decide)
theorem wrCmd (v : Word) : Statement (.wrCmd v) := fun _ => full_shape _ _ _ _ (by decide)
theorem wrId (v : Word) : Statement (.wrId v) := fun _ => full_shape _ _ _ _ (by decide)
theorem wrStatus (v : Word) : Statement (.wrStatus v) := fun _ => full_shape _ _ _ _ (by decide)
theorem wrErrCmd (v : Word) : Statement (.wrErrCmd v) := fun _ => full_shape _ _ _ _ (by decide)
theorem wrOutCount (v : Word) : Statement (.wrOutCount v) := fun _ => full_shape _ _ _ _ (by decide)
theorem wrPairCount (v : Word) : Statement (.wrPairCount v) := fun _ => full_shape _ _ _ _ (by decide)
theorem wrPcmCount (v : Word) : Statement (.wrPcmCount v) := fun _ => full_shape _ _ _ _ (by decide)
theorem wrBlockCount (v : Word) : Statement (.wrBlockCount v) := fun _ => full_shape _ _ _ _ (by decide)
theorem wrDecimCnt (v : Word) : Statement (.wrDecimCnt v) := fun _ => full_shape _ _ _ _ (by decide)
theorem wrDbgSmoothI (v : Word) : Statement (.wrDbgSmoothI v) := fun _ => full_shape _ _ _ _ (by decide)
theorem wrDbgSmoothQ (v : Word) : Statement (.wrDbgSmoothQ v) := fun _ => full_shape _ _ _ _ (by decide)
theorem wrDbgPhase (v : Word) : Statement (.wrDbgPhase v) := fun _ => full_shape _ _ _ _ (by decide)
theorem wrDbgDecimOut (v : Word) : Statement (.wrDbgDecimOut v) := fun _ => full_shape _ _ _ _ (by decide)
theorem wrDbgDeemphOut (v : Word) : Statement (.wrDbgDeemphOut v) := fun _ => full_shape _ _ _ _ (by decide)
theorem wrCaps (v : Word) : Statement (.wrCaps v) := fun _ => full_shape _ _ _ _ (by decide)
theorem rdId : Statement .rdId := fun _ => full_shape _ _ _ _ (by decide)
theorem rdCtrl : Statement .rdCtrl := fun _ => full_shape _ _ _ _ (by decide)
theorem rdDecimN : Statement .rdDecimN := fun _ => full_shape _ _ _ _ (by decide)
theorem rdBoxN : Statement .rdBoxN := fun _ => full_shape _ _ _ _ (by decide)
theorem rdDeemphD : Statement .rdDeemphD := fun _ => full_shape _ _ _ _ (by decide)
theorem rdScale : Statement .rdScale := fun _ => full_shape _ _ _ _ (by decide)
theorem rdCmd : Statement .rdCmd := fun _ => full_shape _ _ _ _ (by decide)
theorem rdStatus : Statement .rdStatus := fun _ => full_shape _ _ _ _ (by decide)
theorem rdErrCmd : Statement .rdErrCmd := fun _ => full_shape _ _ _ _ (by decide)
theorem rdOutCount : Statement .rdOutCount := fun _ => full_shape _ _ _ _ (by decide)
theorem rdPairCount : Statement .rdPairCount := fun _ => full_shape _ _ _ _ (by decide)
theorem rdPcmCount : Statement .rdPcmCount := fun _ => full_shape _ _ _ _ (by decide)
theorem rdBlockCount : Statement .rdBlockCount := fun _ => full_shape _ _ _ _ (by decide)
theorem rdDecimCnt : Statement .rdDecimCnt := fun _ => full_shape _ _ _ _ (by decide)
theorem rdDbgSmoothI : Statement .rdDbgSmoothI := fun _ => full_shape _ _ _ _ (by decide)
theorem rdDbgSmoothQ : Statement .rdDbgSmoothQ := fun _ => full_shape _ _ _ _ (by decide)
theorem rdDbgPhase : Statement .rdDbgPhase := fun _ => full_shape _ _ _ _ (by decide)
theorem rdDbgDecimOut : Statement .rdDbgDecimOut := fun _ => full_shape _ _ _ _ (by decide)
theorem rdDbgDeemphOut : Statement .rdDbgDeemphOut := fun _ => full_shape _ _ _ _ (by decide)
theorem rdCaps : Statement .rdCaps := fun _ => full_shape _ _ _ _ (by decide)
theorem busError (write : Bool) (off : Offset) (width : AccessWidth) (lanes : BitVec 4) : Statement (.busError write off width lanes) := fun _ =>
  ⟨descReserved_mkDesc write off, .inl ⟨write, off, width, lanes, rfl⟩⟩
theorem illegalCmd (w : Word) : Statement (.illegalCmd w) := fun _ => trivial

end Laws.EncodedShape
end Sys2Proof
end

