-- ==== Sys2Proof/Tests/Slice0.lean ====
section
/-! SUPPORT. Tests. Expected values are those of 95_test_vectors.md, or are computed by hand from the rule named. -/

namespace Sys2Proof.Tests

open Sys2Proof Sys2Proof.Machine

/-! ### Well-formedness: one ill-formed term for each check -/

theorem test_wf_refuses_busError_of_a_sound_access : (Instr.busError false 0x01C#12 .w32 0xF#4).wf = false := by decide
theorem test_wf_refuses_illegalCmd_of_a_legal_word :
    ([0x00000000#32, 0x01000000#32, 0x02000000#32, 0x10000000#32, 0x1100FF7F#32, 0x12000000#32].all fun w =>
      !(Instr.illegalCmd w).wf) = true := by decide
theorem test_wf_admits_each_kind_of_bus_error :
    (Instr.busError true 0x002#12 .w32 0xF#4).wf = true ∧ (Instr.busError false 0x050#12 .w32 0xF#4).wf = true ∧
    (Instr.busError false 0x000#12 .w16 0xF#4).wf = true ∧ (Instr.busError false 0x000#12 .w32 0x7#4).wf = true := by
  decide
theorem test_wf_admits_illegal_words :
    (Instr.illegalCmd 0x11010000#32).wf = true ∧ (Instr.illegalCmd 0x00000001#32).wf = true := by decide

/-! ### Decoding: a word for every constructor, written from 30_encoding.md R81 to R91 -/

theorem test_decode_commands :
    decodeTableWord 32 0x00000000 = some .nop ∧
    decodeTableWord 32 0x01000000 = some .reset ∧
    decodeTableWord 32 0x02000000 = some .construct ∧
    decodeTableWord 32 0x10000000 = some .blockBegin ∧
    decodeTableWord 32 0x1100FF7F = some (.pair 0x7F#8 0xFF#8) ∧
    decodeTableWord 32 0x12000000 = some .blockEnd ∧
    decodeTableWord 32 0x03000000 = some (.illegalCmd 0x03000000#32) ∧
    decodeTableWord 32 0x11010000 = some (.illegalCmd 0x11010000#32) := by decide

theorem test_decode_writes_low :
    decodeTableWord 48 0xCAFE00018000 = some (.wrId 0xCAFE0001#32) ∧
    decodeTableWord 48 0xCAFE00018004 = some (.wrCtrl 0xCAFE0001#32) ∧
    decodeTableWord 48 0xCAFE00018008 = some (.wrDecimN 0xCAFE0001#32) ∧
    decodeTableWord 48 0xCAFE0001800C = some (.wrBoxN 0xCAFE0001#32) ∧
    decodeTableWord 48 0xCAFE00018010 = some (.wrDeemphD 0xCAFE0001#32) ∧
    decodeTableWord 48 0xCAFE00018014 = some (.wrScale 0xCAFE0001#32) ∧
    decodeTableWord 48 0xCAFE00018018 = some (.wrCmd 0xCAFE0001#32) ∧
    decodeTableWord 48 0xCAFE0001801C = some (.wrStatus 0xCAFE0001#32) ∧
    decodeTableWord 48 0xCAFE00018020 = some (.wrErrCmd 0xCAFE0001#32) ∧
    decodeTableWord 48 0xCAFE00018024 = some (.wrOutCount 0xCAFE0001#32) := by decide

theorem test_decode_reads_low :
    decodeTableWord 16 0x0000 = some .rdId ∧
    decodeTableWord 16 0x0004 = some .rdCtrl ∧
    decodeTableWord 16 0x0008 = some .rdDecimN ∧
    decodeTableWord 16 0x000C = some .rdBoxN ∧
    decodeTableWord 16 0x0010 = some .rdDeemphD ∧
    decodeTableWord 16 0x0014 = some .rdScale ∧
    decodeTableWord 16 0x0018 = some .rdCmd ∧
    decodeTableWord 16 0x001C = some .rdStatus ∧
    decodeTableWord 16 0x0020 = some .rdErrCmd ∧
    decodeTableWord 16 0x0024 = some .rdOutCount := by decide

theorem test_decode_writes_high :
    decodeTableWord 48 0xCAFE00018028 = some (.wrPairCount 0xCAFE0001#32) ∧
    decodeTableWord 48 0xCAFE0001802C = some (.wrPcmCount 0xCAFE0001#32) ∧
    decodeTableWord 48 0xCAFE00018030 = some (.wrBlockCount 0xCAFE0001#32) ∧
    decodeTableWord 48 0xCAFE00018034 = some (.wrDecimCnt 0xCAFE0001#32) ∧
    decodeTableWord 48 0xCAFE00018038 = some (.wrDbgSmoothI 0xCAFE0001#32) ∧
    decodeTableWord 48 0xCAFE0001803C = some (.wrDbgSmoothQ 0xCAFE0001#32) ∧
    decodeTableWord 48 0xCAFE00018040 = some (.wrDbgPhase 0xCAFE0001#32) ∧
    decodeTableWord 48 0xCAFE00018044 = some (.wrDbgDecimOut 0xCAFE0001#32) ∧
    decodeTableWord 48 0xCAFE00018048 = some (.wrDbgDeemphOut 0xCAFE0001#32) ∧
    decodeTableWord 48 0xCAFE0001804C = some (.wrCaps 0xCAFE0001#32) := by decide

theorem test_decode_reads_high :
    decodeTableWord 16 0x0028 = some .rdPairCount ∧
    decodeTableWord 16 0x002C = some .rdPcmCount ∧
    decodeTableWord 16 0x0030 = some .rdBlockCount ∧
    decodeTableWord 16 0x0034 = some .rdDecimCnt ∧
    decodeTableWord 16 0x0038 = some .rdDbgSmoothI ∧
    decodeTableWord 16 0x003C = some .rdDbgSmoothQ ∧
    decodeTableWord 16 0x0040 = some .rdDbgPhase ∧
    decodeTableWord 16 0x0044 = some .rdDbgDecimOut ∧
    decodeTableWord 16 0x0048 = some .rdDbgDeemphOut ∧
    decodeTableWord 16 0x004C = some .rdCaps := by decide

/-- V-BUS-1, V-BUS-2, V-BUS-5, and accesses of another width or with a lane disabled (20_memory.md R63). -/
theorem test_decode_bus_errors :
    decodeTableWord 16 0x0050 = some (.busError false 0x050#12 .w32 0xF#4) ∧
    decodeTableWord 16 0x0002 = some (.busError false 0x002#12 .w32 0xF#4) ∧
    decodeTableWord 16 0x8FFC = some (.busError true 0xFFC#12 .w32 0xF#4) ∧
    decode (.busacc ⟨.w8, 0xF#4, 0x001C#16, 0#32⟩) = .ok (.busError false 0x01C#12 .w8 0xF#4) ∧
    decode (.busacc ⟨.w32, 0xE#4, 0x8018#16, 0#32⟩) = .ok (.busError true 0x018#12 .w32 0xE#4) := by decide

theorem test_decode_refuses_reserved_descriptor_bits :
    decode (.busacc (fullAccess 0x1004#16 0#32)) = .error .reservedDescriptorBits ∧
    decode (.busacc (fullAccess 0xC004#16 0#32)) = .error .reservedDescriptorBits := by decide

/-! ### Numerics: V-NUM, V-MAP, V-CP, V-ARG, V-PCM -/

theorem test_f32_of_integers :
    f32 127 = 0x42FE0000#32 ∧ f32 254 = 0x437E0000#32 ∧ f32 255 = 0x437F0000#32 ∧ f32 0 = 0#32 := by decide +kernel
theorem test_signed_zeros :
    fadd 0x80000000#32 0#32 = 0#32 ∧ fadd 0x80000000#32 0x80000000#32 = 0x80000000#32 ∧ fsub 0#32 0#32 = 0#32 ∧
    fmul 0xBF800000#32 0#32 = 0x80000000#32 := by decide +kernel
theorem test_division_by_zero :
    fdiv 0x3F800000#32 0#32 = 0x7F800000#32 ∧ fdiv 0x3F800000#32 0x80000000#32 = 0xFF800000#32 := by decide +kernel
theorem test_invalid_operations : isNaN (fdiv 0#32 0#32) = true ∧ isNaN (fmul 0#32 0x7F800000#32) = true ∧
    isNaN (fsub 0x7F800000#32 0x7F800000#32) = true :=
  ⟨isNaN_nanResult _ _ _, isNaN_nanResult _ _ _, isNaN_nanResult _ _ _⟩
theorem test_rounding : fsub 0x4B800000#32 0x4B7FFFFF#32 = 0x3F800000#32 ∧
    fadd 0x4B800000#32 0x3F800000#32 = 0x4B800000#32 ∧ fdiv 0x40E00000#32 0x40400000#32 = 0x40155555#32 := by
  decide +kernel
/-- The smallest normal less one unit is the largest subnormal; a product below half a unit is a zero of its sign
(40_numerics.md R104, R103). -/
theorem test_subnormals : fsub 0x00800000#32 0x00000001#32 = 0x007FFFFF#32 ∧
    fmul 0x80000001#32 0x3E800000#32 = 0x80000000#32 ∧ fmul 0x00000003#32 0x3F000000#32 = 0x00000002#32 := by
  decide +kernel
theorem test_overflow : fadd 0x7F7FFFFF#32 0x7F7FFFFF#32 = 0x7F800000#32 ∧
    fmul 0xFF7FFFFF#32 0x40000000#32 = 0xFF800000#32 := by decide +kernel
/-- V-NUM-11: 1e-10, 10000, 100000. -/
theorem test_decimals : f32OfRat false 1 (10 ^ 10) = 0x2EDBE6FF#32 ∧ f32OfRat false 10000 1 = 0x461C4000#32 ∧
    f32OfRat false 100000 1 = 0x47C35000#32 := by decide +kernel
theorem test_comparisons : flt 0x80000000#32 0#32 = false ∧ fge 0x80000000#32 0#32 = true ∧
    fge 0x7FC00000#32 0#32 = false ∧ flt 0xFF800000#32 0x7F800000#32 = true := by decide +kernel
theorem test_byteMap : byteMap (f32 0) = 0xBF800000#32 ∧ byteMap (f32 1) = 0xBF7DFBF8#32 ∧
    byteMap (f32 126) = 0xBC010204#32 ∧ byteMap (f32 127) = 0#32 ∧ byteMap (f32 128) = 0x3C010204#32 ∧
    byteMap (f32 254) = 0x3F800000#32 ∧ byteMap (f32 255) = 0x3F810204#32 := by decide +kernel
theorem test_cprod : cprod 0x3F800000#32 0x3F800000#32 0x3F800000#32 0xBF800000#32 = (0#32, 0xC0000000#32) ∧
    cprod 0#32 0x3F810204#32 0#32 0xBF800000#32 = (0xBF810204#32, 0x80000000#32) ∧
    cprod 0x3F800000#32 0#32 0x80000000#32 0x3F800000#32 = (0#32, 0x3F800000#32) ∧
    cprod 0x3F800000#32 0#32 0xBF800000#32 0x80000000#32 = (0xBF800000#32, 0#32) := by decide +kernel
/-- V-ARG-5, 7, 8, 10, 11, 13, 14, 15. -/
theorem test_argFast : argFast 0x80000000#32 0xBF800000#32 = 0x40490FDB#32 ∧ argFast 0#32 0#32 = 0x3FC90FDB#32 ∧
    argFast 0xBF800000#32 0#32 = 0xBFC90FDB#32 ∧ argFast 0x3F000000#32 0x3F800000#32 = 0x3F060A92#32 ∧
    argFast 0x3F800000#32 0x3F000000#32 = 0x3F860A92#32 ∧ argFast 0x3F000000#32 0xBF800000#32 = 0x40278D36#32 ∧
    argFast 0#32 0x3B000000#32 = 0x33800000#32 ∧ argFast 0#32 0x3B000001#32 = 0#32 := by decide +kernel
/-- V-ARG-1 to 9, 16, 17: the fixed values. -/
theorem test_argExact_fixed : argExact 0#32 0x3F800000#32 = 0#32 ∧ argExact 0x3F800000#32 0#32 = 0x3FC90FDB#32 ∧
    argExact 0#32 0xBF800000#32 = 0x40490FDB#32 ∧ argExact 0x80000000#32 0xBF800000#32 = 0xC0490FDB#32 ∧
    argExact 0xBF800000#32 0xBF800000#32 = 0xC016CBE4#32 ∧ argExact 0x3F800000#32 0x3F800000#32 = 0x3F490FDB#32 ∧
    argExact 0x7F800000#32 0x3F800000#32 = 0x3FC90FDB#32 ∧ argExact 0x3F800000#32 0x7F800000#32 = 0#32 ∧
    argExact 0xFF800000#32 0xFF800000#32 = 0xC016CBE4#32 := by decide +kernel
/-- V-ARG-10, 11, 13: the correctly rounded angles; each and its neighbours are admitted, the next but one is not. -/
theorem test_argExact_bound :
    argNearest (angleFixed 0x3F000000#32 0x3F800000#32) = 0x3EED6338#32 ∧
    argNearest (angleFixed 0x3F800000#32 0x3F000000#32) = 0x3F8DB70D#32 ∧
    argNearest (angleFixed 0x3F000000#32 0xBF800000#32) = 0x402B6374#32 ∧
    argAdmits (angleFixed 0x3F000000#32 0x3F800000#32) 0x3EED6338#32 = true ∧
    argAdmits (angleFixed 0x3F000000#32 0x3F800000#32) 0x3EED633A#32 = false ∧
    argAdmits (angleFixed 0x3F000000#32 0x3F800000#32) 0x3EED6336#32 = false := by decide +kernel
/-- Draws more than one ulp of the real angle away, and a draw of the wrong sign: none is admitted (R157 item 5). -/
theorem test_argExact_bound_refuses :
    argAdmits (angleFixed 0x1AC00000#32 0x3F800000#32) 0x1AC00001#32 = false ∧
    argAdmits (angleFixed 0x1A400000#32 0x3F800000#32) 0x1A400001#32 = false ∧
    argAdmits (angleFixed 0x00000001#32 0x7F000000#32) 0x80000001#32 = false ∧
    argAdmits (angleFixed 0x00000001#32 0x7F000000#32) 0x00000001#32 = true ∧
    argAdmits (angleFixed 0x00000001#32 0x7F000000#32) 0x00000000#32 = true := by decide +kernel
/-- Four times the fixed-point pi/4 begins with the hexadecimal digits of pi, 3.243F6A88 85A308D3. -/
theorem test_quarterFixed : (4 * quarterFixed).toNat / 2 ^ 960 = 0x3243F6A8885A308D3 := by decide +kernel
/-- V-PCM-2, 3, 7, 9, 11 to 16. -/
theorem test_toPcm : toPcm 0x45F56FD7#32 = 7853#16 ∧ toPcm 0xC5F56FD7#32 = -7853#16 ∧ toPcm 0x47000000#32 = 0x8000#16 ∧
    toPcm 0xC7000100#32 = 0x7FFF#16 ∧ toPcm (fmul 0x3FC90FDB#32 0x47C35000#32) = 26007#16 ∧
    toPcm (fmul 0xC0490FDB#32 0x47C35000#32) = 13521#16 ∧ toPcm 0x4EFFFFFF#32 = -128#16 ∧
    toPcm 0x4F000000#32 = 0#16 ∧ toPcm 0x7F800000#32 = 0#16 ∧ toPcm 0x7FC00000#32 = 0#16 := by decide +kernel

/-! ### Units: V-IIR, V-BOX, V-DISC, V-DEC, V-DE -/

/-- The illustration coefficients EXC of 95_test_vectors.md. -/
def exc : CoefSet :=
  { b := #v[0x3E800000#32, 0x3E800000#32, 0#32, 0#32, 0#32, 0#32, 0#32, 0#32]
    a := #v[0x3F800000#32, 0xBF000000#32, 0#32, 0#32, 0#32, 0#32, 0#32, 0#32] }

/-- V-IIR-1, the first four. -/
theorem test_iir_impulse :
    (List.foldl (fun (p : Iir 8 × List F32) v => (smootherIn exc p.1 v, p.2 ++ [(smootherIn exc p.1 v).out]))
      (Iir.zero 8, []) [0x3F800000#32, 0#32, 0#32, 0#32]).2 =
      [0x3E800000#32, 0x3EC00000#32, 0x3E400000#32, 0x3DC00000#32] := by decide +kernel
/-- V-BOX-1: n = 3, inputs 3, 6, 9, 12 give 1, 3, 6, 9. -/
theorem test_box :
    ([[3], [3, 6], [3, 6, 9], [3, 6, 9, 12]].map fun vs => (boxRun 3 (vs.map f32)).out) = [1, 3, 6, 9].map f32 := by
  decide +kernel
/-- V-DISC-4 and V-DISC-6. -/
theorem test_disc :
    (discIn .after .exact Disc.initial (f32 127) (f32 255)).out = 0x3FC90FDB#32 ∧
    (discIn .after .exact (discIn .after .exact Disc.initial (f32 127) (f32 255)) (f32 255) (f32 127)).out =
      0xBFC90FDB#32 ∧
    (discIn .after .fast (discIn .after .fast Disc.initial (f32 128) (f32 127)) (f32 128) (f32 127)).out =
      0x362C0000#32 := by decide +kernel
/-- V-DEC-1 (the first three inputs) and V-DEC-4. -/
theorem test_dec :
    decRun 3#16 ([1, 2, 4].map f32) = ⟨0#32, 0#16, true, 0x40155555#32⟩ ∧
    (decRun 3#16 ([1, 2].map f32)).ready = false ∧
    (decRun 10#16 (List.replicate 10 0x3DCCCCCD#32)).out = 0x3DCCCCCE#32 := by decide +kernel
/-- V-DE-1, the first two, and V-DE-4. -/
theorem test_deemph :
    (deemphIn (deemphInit 0x3F000000#32) 0x3FC90FDB#32).filt.out = 0x3F490FDB#32 ∧
    (deemphIn (deemphIn (deemphInit 0x3F000000#32) 0x3FC90FDB#32) 0x3FC90FDB#32).filt.out = 0x3F96CBE4#32 ∧
    (deemphIn (deemphInit 0#32) 0x80000000#32).filt.out = 0#32 := by decide +kernel
/-- P2: the samples 7853 and -7853 reach the Sink as AD 1E 53 E1. -/
theorem test_blockBytes : blockBytes [7853#16, -7853#16] = [0xAD#8, 0x1E#8, 0x53#8, 0xE1#8] := by decide

/-! ### Instructions: one step each -/

/-- A small state: box smoother with window 1, ARG_EXACT, ORDER_SEL 12, N = 2, in state `m`. -/
def tst (m : Mode) : State :=
  { State.reset with mode := m, ctrl := ⟨.box, .exact, 12#6⟩, decimN := 2#16 }

/-- The fields of the outcome of `exec` that a test looks at. -/
def seen (i : Instr) (s : State) : Option (Mode × ErrCode × Word) :=
  match exec i s with
  | .next t => some (t.mode, t.err, t.errCmd)
  | .fault _ => none
  | .refused _ => none

/-- The value a read returns. -/
def value (i : Instr) (s : State) : Option Word :=
  match exec i s with
  | .next t => t.reads.getLast?
  | .fault _ => none
  | .refused _ => none

/-- V-CMD-15. -/
theorem test_nop : seen .nop (tst .ready) = some (.ready, .none, 0#32) := by decide
/-- V-CMD-14. -/
theorem test_reset : seen .reset (raiseFault .cfgOrder 0x02000000#32 (tst .unconf)) = some (.unconf, .none, 0#32) := by
  decide
/-- V-CON-8, V-CMD-8. -/
theorem test_construct : seen .construct { tst .unconf with boxN := 256#16 } = some (.ready, .none, 0#32) ∧
    seen .construct (tst .ready) = some (.fault, .protocol, 0x02000000#32) := by decide
/-- V-CON-5, V-CON-4, V-CON-6, V-CON-7: the priority of the checks. -/
theorem test_construct_checks :
    seen .construct { tst .unconf with ctrl := ⟨.box, .exact, 13#6⟩, decimN := 0#16 } =
      some (.fault, .cfgOrder, 0x02000000#32) ∧
    seen .construct { tst .unconf with decimN := 0#16, boxN := 0#16 } = some (.fault, .cfgDecim, 0x02000000#32) ∧
    seen .construct { tst .unconf with boxN := 0#16 } = some (.fault, .cfgBox, 0x02000000#32) ∧
    seen .construct { tst .unconf with boxN := 257#16 } = some (.fault, .alloc, 0x02000000#32) := by decide
theorem test_blockBegin : seen .blockBegin (tst .ready) = some (.inblock, .none, 0#32) ∧
    seen .blockBegin (tst .unconf) = some (.fault, .protocol, 0x10000000#32) := by decide
/-- P2 pair 1: I = 127, Q = 255 gives the phase pi/2 and no sample yet. -/
theorem test_pair_first :
    (match exec (.pair 127#8 255#8) (tst .inblock) with
      | .next t => (t.disc.out, t.pairCount, t.dec.ready, t.dec.cnt, t.buf)
      | _ => (0#32, 0#32, true, 0#16, [])) = (0x3FC90FDB#32, 1#32, false, 1#16, []) := by decide +kernel
/-- P2 pair 2: the same pair again, after pair 1's decimator state, emits 7853. -/
theorem test_pair_emits :
    (match exec (.pair 127#8 255#8)
        { tst .inblock with
          bi := boxIn 1 Box.zero (f32 127), bq := boxIn 1 Box.zero (f32 255)
          disc := ⟨0#32, 0x3F810204#32, 0x3FC90FDB#32⟩, dec := ⟨0x3FC90FDB#32, 1#16, false, 0#32⟩ } with
      | .next t => (t.disc.out, t.dec.out, t.dec.ready, t.buf)
      | _ => (0#32, 0#32, false, [])) = (0#32, 0x3F490FDB#32, true, [7853#16]) := by decide +kernel
/-- V-CMD-7 and BLOCK_END in INBLOCK. -/
theorem test_blockEnd : seen .blockEnd (tst .inblock) = some (.flush, .none, 0#32) ∧
    seen .blockEnd (tst .ready) = some (.fault, .protocol, 0x12000000#32) := by decide
/-- V-CMD-4, V-CMD-13. -/
theorem test_illegalCmd : seen (.illegalCmd 0x13000000#32) (tst .ready) = some (.fault, .illegalCmd, 0x13000000#32) ∧
    seen (.illegalCmd 0x01000001#32) (raiseFault .protocol 7#32 (tst .ready)) = some (.fault, .protocol, 7#32) := by
  decide
/-- V-CMD-3, V-CMD-10 by WR CMD. -/
theorem test_wrCmd : seen (.wrCmd 0x11010000#32) (tst .inblock) = some (.fault, .illegalCmd, 0x11010000#32) ∧
    seen (.wrCmd 0x1100FF7F#32) (tst .ready) = some (.fault, .protocol, 0x1100FF7F#32) := by decide
/-- V-CFG-1, V-CFG-2. -/
theorem test_wrCtrl : ctrlWord (ctrlOfWord 0xFFFFFFFF#32) = 0x00003F03#32 ∧
    ctrlOfWord 0x00001402#32 = ⟨.recursive, .fast, 20#6⟩ := by decide
/-- V-CMD-11 and a write of CTRL in INBLOCK. -/
theorem test_config_write_faults : seen (.wrDecimN 4#32) (tst .ready) = some (.fault, .protocol, 0xFF000008#32) ∧
    seen (.wrCtrl 0#32) (tst .inblock) = some (.fault, .protocol, 0xFF000004#32) ∧
    seen (.wrBoxN 0#32) (tst .ready) = some (.fault, .protocol, 0xFF00000C#32) ∧
    seen (.wrDeemphD 0#32) (tst .ready) = some (.fault, .protocol, 0xFF000010#32) ∧
    seen (.wrScale 0x47C35000#32) (tst .inblock) = some (.fault, .protocol, 0xFF000014#32) := by decide
/-- V-CFG-3, V-CFG-4, V-CFG-5, V-CFG-6. -/
theorem test_config_write_stores :
    exec (.wrDecimN 0x12340005#32) (tst .unconf) = .next { tst .unconf with decimN := 5#16 } ∧
    exec (.wrBoxN 0xFFFF0000#32) (tst .unconf) = .next { tst .unconf with boxN := 0#16 } ∧
    exec (.wrDeemphD 0x7FC00001#32) (tst .unconf) = .next { tst .unconf with deemphD := 0x7FC00001#32 } ∧
    exec (.wrScale 0xC61C4000#32) (tst .unconf) = .next { tst .unconf with scale := 0xC61C4000#32 } :=
  ⟨rfl, rfl, rfl, rfl⟩
/-- V-REG, all but V-REG-2. -/
theorem test_reads_after_reset :
    value .rdId State.reset = some 0x4D464D01#32 ∧ value .rdDecimN State.reset = some 0x14#32 ∧
    value .rdBoxN State.reset = some 1#32 ∧ value .rdDeemphD State.reset = some 0#32 ∧
    value .rdScale State.reset = some 0x461C4000#32 ∧ value .rdCmd State.reset = some 0#32 ∧
    value .rdStatus State.reset = some 0#32 ∧ value .rdCaps State.reset = some 0x01002000#32 :=
  ⟨rfl, rfl, rfl, rfl, rfl, rfl, rfl, rfl⟩
/-- STATUS in FLUSH with DREADY = 1 (P2), and after a CFG_ORDER fault (V-CON-2); CTRL as V-CFG-2. -/
theorem test_rdStatus_rdCtrl :
    value .rdStatus { tst .flush with dec := ⟨0#32, 0#16, true, 0#32⟩ } = some 0x00000103#32 ∧
    value .rdStatus (raiseFault .cfgOrder 0x02000000#32 (tst .unconf)) = some 0x00000017#32 ∧
    value .rdErrCmd (raiseFault .cfgOrder 0x02000000#32 (tst .unconf)) = some 0x02000000#32 ∧
    value .rdCtrl { tst .ready with ctrl := ctrlOfWord 0x00001402#32 } = some 0x00001402#32 := by decide
/-- The counters and views read their own fields. -/
theorem test_rd_counters :
    value .rdOutCount { tst .inblock with buf := [1#16, 2#16] } = some 2#32 ∧
    value .rdPairCount { tst .inblock with pairCount := 3#32 } = some 3#32 ∧
    value .rdPcmCount { tst .inblock with pcmCount := 4#32 } = some 4#32 ∧
    value .rdBlockCount { tst .inblock with blockCount := 5#32 } = some 5#32 ∧
    value .rdDecimCnt { tst .inblock with dec := ⟨0#32, 6#16, false, 0#32⟩ } = some 6#32 := by decide
/-- The debug registers read the active unit's output. -/
theorem test_rd_debug :
    value .rdDbgSmoothI { tst .ready with bi := { Box.zero with out := 1#32 } } = some 1#32 ∧
    value .rdDbgSmoothQ { tst .ready with bq := { Box.zero with out := 2#32 } } = some 2#32 ∧
    value .rdDbgSmoothI { tst .ready with ctrl := ⟨.recursive, .exact, 12#6⟩, si := { Iir.zero 8 with out := 3#32 } } =
      some 3#32 ∧
    value .rdDbgPhase { tst .ready with disc := { Disc.initial with out := 4#32 } } = some 4#32 ∧
    value .rdDbgDecimOut { tst .ready with dec := { Decim.initial with out := 5#32 } } = some 5#32 ∧
    value .rdDbgDeemphOut { tst .ready with de := { deemphInit 0#32 with filt := { Iir.zero 2 with out := 6#32 } } } =
      some 6#32 := ⟨rfl, rfl, rfl, rfl, rfl, rfl⟩
/-- V-BUS-1, V-BUS-3, V-BUS-4. -/
theorem test_refusals (s : State) : exec (.busError false 0x050#12 .w32 0xF#4) s = .refused (.busError 0x050#12) ∧
    exec (.wrStatus 0#32) s = .refused (.readOnlyWrite 0x01C#12) ∧
    exec (.wrId 0#32) s = .refused (.readOnlyWrite 0x000#12) := ⟨rfl, rfl, rfl⟩

/-! ### Steps, the agents and the assembler -/

/-- The very next step after `withFetchWord` runs exactly that instruction (log 5). -/
theorem test_withFetchWord :
    step (State.reset.withFetchWord 32 0x1100FF7F) = exec (.pair 0x7F#8 0xFF#8) State.reset ∧
    step (State.reset.withFetchWord 16 0x001C) = exec .rdStatus State.reset ∧
    step (State.reset.withFetchWord 16 0x801C) = exec (.wrStatus 0#32) State.reset := ⟨rfl, rfl, rfl⟩
/-- V-FLUSH-2: a write in FLUSH is held, and the Host stalls for ever where nothing else is scheduled. -/
theorem test_flush_hold : exec (.wrScale 1#32) (tst .flush) = .next { tst .flush with held := some (.wrScale 1#32) } ∧
    step { tst .flush with held := some .nop } = .fault .hostStalled := ⟨rfl, rfl⟩
/-- The Sink takes the block (P2), and the platform's reset discards it (V-FLUSH-4). -/
theorem test_sink_and_hwReset :
    step { tst .flush with schedule := [.sink], buf := [7853#16] } =
      .next { tst .ready with sinkLog := [[7853#16]], blockCount := 1#32 } ∧
    step { tst .flush with schedule := [.hwReset], buf := [7853#16], held := some .reset } = .next State.reset :=
  ⟨rfl, rfl⟩
/-- The lines of 30_encoding.md R93, R94. -/
theorem test_assembler :
    (AsmLine.pair 127#8 255#8).transactions = some [writeAt 0x018#12 0x1100FF7F#32] ∧
    (AsmLine.config true false 12#6).transactions = some [writeAt 0x004#12 0x00000C01#32] ∧
    (AsmLine.wrf .scale false 10000 1).transactions = some [writeAt 0x014#12 0x461C4000#32] ∧
    (AsmLine.block [1#8, 2#8]).transactions =
      some [writeAt 0x018#12 0x10000000#32, writeAt 0x018#12 0x11000201#32, writeAt 0x018#12 0x12000000#32] ∧
    (AsmLine.rd .status).transactions = some [readAt 0x01C#12] := by decide +kernel
/-- R93: a write listed before SINK is held, so the Host has an entry more after the acceptance, and the second SINK
stands behind the second BLOCK_END; with no write held there is none more. -/
theorem test_loadProgram :
    (loadProgram [.blockEnd, .rd .status, .nop, .sink, .blockBegin, .blockEnd, .sink] State.reset).schedule =
      [.host, .host, .host, .sink, .host, .host, .host, .sink] ∧
    (loadProgram [.blockEnd, .sink, .rd .status] State.reset).schedule = [.host, .sink, .host] ∧
    (loadProgram [.rd .status, .sink, .nop] State.reset).hostQueue = [readAt 0x01C#12, writeAt 0x018#12 0#32] := by
  decide +kernel
/-- Every selector ROM set has `a[0]` of a valid set, whatever the draw. -/
theorem test_coef_valid (o : BitVec 6) : (Config.coef o).valid = true := by
  unfold Config.coef
  split
  · assumption
  · unfold CoefSet.valid
    simp only [Vector.getElem_set_self]
    decide
/-- DEFAULT_ORDER passes the CONSTRUCT check, whatever it is. -/
theorem test_defaultOrder_legal : legalOrder Config.defaultOrder.code = true := by
  cases Config.defaultOrder <;> decide

/-! ### Witnesses: for each statement with hypotheses, operands and states that meet them -/

theorem wit_DecodeOfEncodeIsTheInstruction :
    (Instr.pair 0xFF#8 0x00#8).wf = true ∧ (Instr.wrScale 0xFFFFFFFF#32).wf = true ∧ Instr.rdCaps.wf = true ∧
    (Instr.busError true 0xFFF#12 .w64 0x0#4).wf = true ∧ (Instr.illegalCmd 0xFFFFFFFF#32).wf = true := by decide

theorem wit_DecodedInstructionsAreWellFormed :
    decode (.cmd 0x13000000#32) = .ok (.illegalCmd 0x13000000#32) ∧
    decode (readAt 0x050#12) = .ok (.busError false 0x050#12 .w32 0xF#4) := by decide

/-- The last mapped offset and the first unmapped one. -/
theorem wit_BusErrorsAreTheBrokenAccesses :
    descReserved 0x004C#16 = 0#3 ∧ descReserved 0x0050#16 = 0#3 ∧ descReserved 0x8FFF#16 = 0#3 := by decide

/-- A Host about to issue a NOP, with the schedule `sched`. -/
def issuing (sched : List Agent) (m : Mode) : State := { tst m with hostQueue := [.cmd 0#32], schedule := sched }

theorem wit_StepRunsTheDecodedInstruction :
    (issuing [] .ready).held = none ∧ (issuing [] .ready).hostQueue = .cmd 0#32 :: [] ∧
    decode (.cmd 0#32) = .ok .nop ∧ (issuing [] .ready).schedule = [] ∧
    (issuing [.host, .sink] .ready).schedule = .host :: [.sink] := by decide

/-- A NOP held in FLUSH, with the schedule `sched`. -/
def holding (sched : List Agent) : State := { tst .flush with held := some .nop, schedule := sched }

theorem wit_HeldWriteWaitsForTheSink :
    (tst .flush).mode = .flush ∧ isWrite .nop = true ∧ (holding []).mode = .flush ∧ (holding []).held = some .nop ∧
    (holding []).schedule = [] ∧ (holding [.host]).schedule = .host :: [] ∧
    (holding [.sink, .host]).schedule = .sink :: .host :: [] := by decide

theorem wit_SinkAcceptDeliversThePendingBlock :
    (holding [.sink]).schedule = .sink :: [] ∧ (holding [.sink]).mode = .flush ∧
    (issuing [.sink] .ready).schedule = .sink :: [] ∧ (issuing [.sink] .ready).mode ≠ .flush := by decide

theorem wit_HardwareResetRestoresResetValues : (holding [.hwReset]).schedule = .hwReset :: [] := by decide

theorem wit_FlushIsLeftOnlyBySinkOrReset :
    (∃ t, step (holding [.sink]) = .next t ∧ (holding [.sink]).mode = .flush ∧ t.mode ≠ .flush) ∧
    (∃ t, step (holding [.hwReset]) = .next t ∧ (holding [.hwReset]).mode = .flush ∧ t.mode ≠ .flush) :=
  ⟨⟨_, rfl, rfl, by decide⟩, ⟨_, rfl, rfl, by decide⟩⟩

theorem wit_WindowAddressesAreBasePlusOffset :
    Config.base + 4096 < Config.base ∨ Config.base + 4096 ≤ Config.base + 4096 := .inr (Nat.le_refl _)

theorem wit_BlocksAreDeliveredLittleEndian :
    [1#16, 0xFFFF#16][1]? = some 0xFFFF#16 ∧ [1#16, 0xFFFF#16][0]? = some 1#16 := by decide

theorem wit_ReadsAtEveryOffsetReturnRegvalOrAreRefused :
    ((0x050#12).toNat % 4 ≠ 0 ∨ 0x050 ≤ (0x050#12).toNat) ∧ ((0x04D#12).toNat % 4 ≠ 0 ∨ 0x050 ≤ (0x04D#12).toNat) ∧
    (0x000#12).toNat % 4 = 0 ∧ (0x000#12).toNat < 0x050 ∧ (0x04C#12).toNat % 4 = 0 ∧ (0x04C#12).toNat < 0x050 := by
  decide

/-- A state in each value of STATE, for the statements by STATE: ConfigurationWritesByState,
WrittenConfigurationReadsBackWithoutReservedBits, NopChangesNothing, ResetCommandRestoresResetValues,
BlockCommandsMoveTheController, IllegalCommandWordsFault, WrCmdExecutesItsCommandWord. -/
theorem wit_statements_by_state :
    (tst .unconf).mode = .unconf ∧ (tst .ready).mode = .ready ∧ (tst .inblock).mode = .inblock ∧
    (tst .flush).mode = .flush ∧ (tst .fault).mode = .fault ∧ (tst .fault).mode ≠ .flush := by decide

/-- The largest window and the largest ratio, and a window that is not examined. -/
theorem wit_ConstructInitialisesEveryUnit :
    (tst .unconf).mode = .unconf ∧ (tst .unconf).ctrl.orderSel ∈ [12#6, 16#6, 20#6, 24#6, 28#6, 32#6] ∧
    (0xFFFF#16 ≠ 0#16) ∧ (0x0100#16 ≠ 0#16 ∧ (0x0100#16).toNat ≤ 256) ∧
    ((tst .unconf).ctrl.smooth = .box → (tst .unconf).boxN ≠ 0#16 ∧ (tst .unconf).boxN.toNat ≤ 256) ∧
    (tst .unconf).decimN ≠ 0#16 := by decide

theorem wit_ConstructChecksFailInOrder :
    (tst .unconf).mode = .unconf ∧ 13#6 ∉ [12#6, 16#6, 20#6, 24#6, 28#6, 32#6] ∧
    32#6 ∈ [12#6, 16#6, 20#6, 24#6, 28#6, 32#6] ∧ ({ tst .unconf with decimN := 0#16 } : State).decimN = 0#16 ∧
    (tst .unconf).decimN ≠ 0#16 ∧ (tst .unconf).ctrl.smooth = .box ∧
    ({ tst .unconf with boxN := 0#16 } : State).boxN = 0#16 ∧
    256 < ({ tst .unconf with boxN := 257#16 } : State).boxN.toNat := by decide

/-- An open block with a window of one input, so that every PAIR is a ready cycle, and `n` samples already there. -/
def filled (n : Nat) : State := { tst .inblock with decimN := 1#16, buf := List.replicate n 0#16 }

/-- The ready flag that a PAIR leaves in `filled n` is set. -/
theorem filled_ready (n : Nat) (ib qb : Byte) :
    (pairStep Config.normPoint ib qb (pairWord ib qb) (filled n)).dec.ready = true := by
  have hf : (pairFront Config.normPoint ib qb (filled n)).dec.ready = true := rfl
  rcases pairStep_cases Config.normPoint ib qb (pairWord ib qb) (filled n) with ⟨h, -⟩ | ⟨h, he⟩
  · rw [hf] at h
    cases h
  · rw [he]
    rcases emit_cases (pairWord ib qb) (pairFront Config.normPoint ib qb (filled n)) with ⟨-, he⟩ | ⟨-, he⟩ <;> rw [he] <;>
      exact h

/-- A PAIR in `filled n` runs the pair step. -/
theorem exec_filled (n : Nat) (ib qb : Byte) :
    exec (.pair ib qb) (filled n) = .next (pairStep Config.normPoint ib qb (pairWord ib qb) (filled n)) := rfl

theorem filled_length (n : Nat) : (filled n).buf.length = n := List.length_replicate

theorem wit_PairRunsTheUnitsInOrder :
    (tst .inblock).mode = .inblock ∧ (tst .inblock).ctrl.smooth = .box ∧
    ({ tst .inblock with ctrl := ⟨.recursive, .exact, 12#6⟩ } : State).ctrl.smooth = .recursive ∧
    (∃ t, exec (.pair 127#8 255#8) (tst .inblock) = .next t ∧ t.dec.ready = false) ∧
    (∃ t, exec (.pair 0#8 0#8) (filled 8191) = .next t ∧ t.dec.ready = true ∧ (filled 8191).buf.length ≠ 8192) ∧
    (∃ t, exec (.pair 0#8 0#8) (filled 8192) = .next t ∧ t.dec.ready = true ∧ (filled 8192).buf.length = 8192) :=
  ⟨rfl, rfl, rfl, ⟨_, rfl, rfl⟩,
    ⟨_, exec_filled _ _ _, filled_ready _ _ _, by rw [filled_length]; decide⟩,
    ⟨_, exec_filled _ _ _, filled_ready _ _ _, filled_length _⟩⟩

theorem wit_ProtocolIsRaisedByExactlyTheseTransactions :
    (∀ v, Instr.wrScale 0#32 ≠ .wrCmd v) ∧ (tst .ready).mode ≠ .fault ∧
    (∃ t, exec (.wrScale 0#32) (tst .ready) = .next t) ∧ (∃ t, exec .construct (tst .inblock) = .next t) ∧
    (∃ t, exec (.pair 0#8 0#8) (tst .unconf) = .next t) :=
  ⟨fun v => by simp, by decide, ⟨_, rfl⟩, ⟨_, rfl⟩, ⟨_, rfl⟩⟩

/-- A PAIR on a full buffer enters FAULT. -/
theorem overflow_of_full (n : Nat) (hn : n = Config.outbufDepth) :
    ∃ t, exec (.pair 0#8 0#8) (filled n) = .next t ∧ t.mode = .fault ∧ t.err = .outOverflow := by
  refine ⟨_, exec_filled _ _ _, ?_⟩
  have hf : (pairFront Config.normPoint 0#8 0#8 (filled n)).dec.ready = true := rfl
  have hl : outLen (pairFront Config.normPoint 0#8 0#8 (filled n)) = Config.outbufDepth := by
    rw [← hn]
    exact filled_length n
  rcases pairStep_cases Config.normPoint 0#8 0#8 (pairWord 0#8 0#8) (filled n) with ⟨h, -⟩ | ⟨-, he⟩
  · rw [hf] at h
    cases h
  · rcases emit_cases (pairWord 0#8 0#8) (pairFront Config.normPoint 0#8 0#8 (filled n)) with ⟨-, h⟩ | ⟨h, -⟩
    · rw [he, h]
      exact ⟨rfl, rfl⟩
    · exact absurd hl h

theorem wit_overflow : ∃ t, exec (.pair 0#8 0#8) (filled 8192) = .next t ∧ t.mode = .fault ∧ t.err = .outOverflow :=
  overflow_of_full 8192 rfl

theorem wit_FaultEntryChangesOnlyTheFaultRecord :
    (∀ v, Instr.blockBegin ≠ .wrCmd v) ∧ (tst .unconf).mode ≠ .fault ∧ (∀ ib qb, Instr.blockBegin ≠ .pair ib qb) ∧
    (∃ t, exec .blockBegin (tst .unconf) = .next t ∧ t.mode = .fault ∧ t.err ≠ .outOverflow) ∧
    (∀ v, Instr.pair 0#8 0#8 ≠ .wrCmd v) ∧ (filled 8192).mode ≠ .fault :=
  ⟨fun v => by simp, by decide, fun ib qb => by simp, ⟨_, rfl, rfl, by decide⟩, fun v => by simp, by
    rw [filled]; decide⟩

theorem wit_FaultIgnoresEveryWriteButReset :
    (tst .fault).mode = .fault ∧ isWrite (.wrCmd 0x01000001#32) = true ∧ Instr.wrCmd 0x01000001#32 ≠ .reset ∧
    Instr.wrCmd 0x01000001#32 ≠ .wrCmd 0x01000000#32 ∧ isWrite (.wrId 0#32) = false ∧ isRead (.wrId 0#32) = false ∧
    isWrite (.busError true 0xFFC#12 .w32 0xF#4) = false ∧ isRead (.busError true 0xFFC#12 .w32 0xF#4) = false := by
  decide

theorem wit_NextStatesAreThoseOfTheLegalityTable :
    (tst .unconf).mode ≠ .flush ∧ (∃ t, exec .construct (tst .unconf) = .next t) ∧ (tst .unconf).mode ≠ .fault ∧
    (tst .fault).mode ≠ .flush ∧ (∃ t, exec .reset (tst .fault) = .next t) ∧ (tst .fault).mode = .fault :=
  ⟨by decide, ⟨_, rfl⟩, by decide, by decide, ⟨_, rfl⟩, rfl⟩

theorem wit_ReadyFlagIsWrittenOnlyByThePairStep :
    (∀ v, Instr.pair 0#8 0#8 ≠ .wrCmd v) ∧ (∃ t, exec (.pair 0#8 0#8) (tst .inblock) = .next t) ∧
    (tst .inblock).mode = .inblock ∧ (∃ t, exec .reset (tst .ready) = .next t) ∧ (tst .ready).mode ≠ .flush ∧
    (∃ t, exec .construct (tst .unconf) = .next t ∧ t.mode = .ready) ∧
    (∃ t, exec .blockEnd (tst .inblock) = .next t) ∧
    ¬ ((tst .inblock).mode = .inblock ∧ ∃ ib qb, Instr.blockEnd = .pair ib qb) :=
  ⟨fun v => by simp, ⟨_, rfl⟩, rfl, ⟨_, rfl⟩, by decide, ⟨_, rfl, rfl⟩, ⟨_, rfl⟩, by simp⟩

/-- One third, and a tie: 2^24 + 1. -/
theorem wit_RoundingIsToNearestTiesToEven :
    0 < 3 ∧ isFinite (withSign false (roundBits (2 ^ 149) 3)) = true ∧
    isFinite (withSign false (roundBits (2 ^ 24 + 1) 1)) = true ∧ isFinite 0x3EAAAAAA#32 = true ∧
    fsign 0x3EAAAAAA#32 = false ∧
    ((fmag (withSign false (roundBits (2 ^ 24 + 1) 1)) * 1 : Int) - (2 ^ 24 + 1 : Nat)).natAbs =
      ((fmag 0x01000001#32 * 1 : Int) - (2 ^ 24 + 1 : Nat)).natAbs ∧
    (2 ^ 25 - 1) * 2 ^ 252 - 1 < (2 ^ 25 - 1) * 2 ^ 252 * 1 ∧
    isFinite (withSign false (roundBits ((2 ^ 25 - 1) * 2 ^ 252 - 1) 1)) = true ∧
    isFinite (withSign false (roundBits ((2 ^ 25 - 1) * 2 ^ 252) 1)) = false := by decide +kernel

theorem wit_ArithmeticIsExactThenRoundedOnce :
    isFinite 0x7F7FFFFF#32 = true ∧ isFinite 0x00000001#32 = true ∧ fval 0x7F7FFFFF#32 + fval 0x00000001#32 ≠ 0 ∧
    fval 0x7F7FFFFF#32 - fval 0x00000001#32 ≠ 0 ∧ isZero 0x00000001#32 = false ∧ isInf 0x7F800000#32 = true ∧
    isInf 0xFF800000#32 = true ∧ fsign 0x7F800000#32 ≠ fsign 0xFF800000#32 ∧ isZero 0x80000000#32 = true ∧
    isFinite 0x80000000#32 = true ∧ isZero 0x00000000#32 = true := by decide +kernel

theorem wit_SignedZeroRules :
    isNaN (fmul 0xBF800000#32 0x00000000#32) = false ∧ isNaN (fdiv 0x00000000#32 0xBF800000#32) = false ∧
    isFinite 0x3F800000#32 = true ∧ isFinite 0xBF800000#32 = true ∧ fsign 0x3F800000#32 ≠ fsign 0xBF800000#32 ∧
    fval 0x3F800000#32 + fval 0xBF800000#32 = 0 := by decide +kernel

theorem wit_NanResultsAreQuiet :
    isNaN 0x7F800001#32 = true ∧ isNaN 0xFFC00000#32 = true ∧ isNaN (fadd 0x7F800001#32 0#32) = true ∧
    isNaN (fsub 0x7F800000#32 0x7F800000#32) = true ∧ isNaN (fmul 0#32 0x7F800000#32) = true ∧
    isNaN (fdiv 0#32 0#32) = true :=
  ⟨by decide, by decide, isNaN_nanResult _ _ _, isNaN_nanResult _ _ _, isNaN_nanResult _ _ _, isNaN_nanResult _ _ _⟩

theorem wit_IntegerConversionIsExact :
    -(2 ^ 24) ≤ (-16777216 : Int) ∧ (-16777216 : Int) ≤ 2 ^ 24 ∧ -(2 ^ 24) ≤ (16777216 : Int) ∧
    (16777216 : Int) ≤ 2 ^ 24 := by decide

theorem wit_NegationAndMagnitudeAreBitOperations : 31 < 32 ∧ 0 < 32 := by decide

theorem wit_ComparisonsAreTheIeeeOrder :
    isNaN 0x7F800001#32 = true ∧ isNaN 0x7F800000#32 = false ∧ isNaN 0x00000000#32 = false ∧
    isNaN 0x80000000#32 = false ∧ fsign 0x7F800000#32 = false ∧ fsign 0x00000000#32 = false ∧
    fsign 0x80000000#32 = true ∧ isNaN 0x3F800000#32 = false ∧ fsign 0x3F800000#32 = false ∧
    isNaN 0xBF800000#32 = false ∧ fsign 0xBF800000#32 = true := by decide

/-- The bounds of the 32-bit integers and their neighbours. -/
theorem wit_PcmConversionTruncatesAndWraps :
    isNaN 0x7FC00000#32 = true ∧ 2 ^ 180 ≤ fval 0x4F000000#32 ∧ fval 0xCF000001#32 < -(2 ^ 180) ∧
    isNaN 0xCF000000#32 = false ∧ -(2 ^ 180) ≤ fval 0xCF000000#32 ∧ fval 0xCF000000#32 < 2 ^ 180 ∧
    isNaN 0x4EFFFFFF#32 = false ∧ -(2 ^ 180) ≤ fval 0x4EFFFFFF#32 ∧ fval 0x4EFFFFFF#32 < 2 ^ 180 := by decide +kernel

theorem wit_IirInFollowsTheRecursion : 0 < 8 ∧ 0 < 2 ∧ 7 < 8 := by decide

theorem wit_BoxDelayLineHoldsTheRunningSums :
    1 ≤ 1 ∧ 1 ≤ 256 ∧ 1 ≤ 256 ∧ 256 ≤ 256 ∧ 0 < 1 ∧ 255 < 256 ∧ [0x3F800000#32] ≠ [] := by decide

theorem wit_DecimatorEmitsOncePerWindow :
    1#16 ≠ 0#16 ∧ 0xFFFF#16 ≠ 0#16 ∧ 2#16 ≠ 0#16 ∧ [0#32, 1#32, 2#32, 3#32] ≠ [] ∧
    [0#32, 1#32, 2#32, 3#32] = [0#32, 1#32] ++ [2#32, 3#32] ∧ [0#32, 1#32].length % (2#16).toNat = 0 ∧
    [2#32, 3#32].length = (2#16).toNat := by decide

theorem wit_FastArgumentFollowsItsFormula :
    isNaN 0x80000000#32 = false ∧ isZero 0x80000000#32 = true ∧ fsign 0x3F800000#32 = false ∧
    isNaN 0x7FC00000#32 = true ∧ fsign 0x80000001#32 = true ∧ isZero 0x80000001#32 = false ∧
    isFinite 0xFF800000#32 = false := by decide

/-- The sample (254, 127), whose product has the parts 1.0 and +0.0. -/
theorem wit_IdenticalSamplesGiveZeroPhase :
    isFinite (discIn .after .exact Disc.initial (f32 254) (f32 127)).prevRe = true ∧
    isFinite (discIn .after .exact Disc.initial (f32 254) (f32 127)).prevIm = true ∧
    isFinite (fmul (discIn .after .exact Disc.initial (f32 254) (f32 127)).prevRe
      (discIn .after .exact Disc.initial (f32 254) (f32 127)).prevIm) = true := by decide +kernel

theorem wit_FirstCallProductIsTheSample :
    isFinite 0x80000000#32 = true ∧ isFinite 0x00000001#32 = true ∧ isFinite 0x7F7FFFFF#32 = true := by decide

theorem wit_ArgExactSpecialValues :
    isNaN 0x80000000#32 = false ∧ isZero 0x80000000#32 = true ∧ fsign 0x7F800000#32 = false ∧
    fsign 0x80000000#32 = true ∧ isZero 0x00000001#32 = false ∧ isFinite 0x00000001#32 = true ∧
    isInf 0x7F800000#32 = true ∧ isInf 0xFF800000#32 = true ∧ fsign 0xFF800000#32 = true ∧
    fmag 0x3F800000#32 = fmag 0xBF800000#32 ∧ fmag 0x7F800000#32 = fmag 0xFF800000#32 := by decide +kernel

theorem wit_ArgExactStaysInRange :
    isNaN 0x7FC00000#32 = true ∧ isNaN 0x7F800000#32 = false ∧ isNaN 0x00000001#32 = false := by decide

theorem wit_ArgExactOpenValuesMeetTheBound :
    isFinite 0x3F000000#32 = true ∧ isZero 0x3F000000#32 = false ∧ fsign 0x3F000000#32 = false ∧
    isFinite 0xBF800000#32 = true ∧ isZero 0xBF800000#32 = false ∧ fmag 0x3F000000#32 ≠ fmag 0xBF800000#32 ∧
    ∃ e : ℤ, (2 : ℝ) ^ e ≤ |Complex.arg ⟨fval 0xBF800000#32, fval 0x3F000000#32⟩| ∧
      |Complex.arg ⟨fval 0xBF800000#32, fval 0x3F000000#32⟩| < (2 : ℝ) ^ (e + 1) := by
  refine ⟨by decide, by decide, by decide, by decide, by decide, by decide +kernel, ?_⟩
  have hy : (0 : ℝ) < fval 0x3F000000#32 := by exact_mod_cast (by decide +kernel : 0 < fval 0x3F000000#32)
  have hpos : Complex.arg ⟨fval 0xBF800000#32, fval 0x3F000000#32⟩ ≠ 0 := by
    rw [arg_of_pos hy]
    exact (sub_pos.mpr (Real.arctan_lt_pi_div_two _)).ne'
  obtain ⟨e, h, h'⟩ := exists_mem_Ico_zpow (abs_pos.mpr hpos) (one_lt_two)
  exact ⟨e, h, h'⟩

/-- With `d = +0.0`; an infinite previous input, or an infinite previous output, for the last clause. -/
theorem wit_DeemphasisWithZeroCoefficientPassesThrough :
    (deemphInit 0#32).b0 = 0x3F800000#32 ∧ (deemphInit 0#32).a1 = 0x80000000#32 ∧ isFinite 0x7F7FFFFF#32 = true ∧
    isFinite (deemphInit 0#32).filt.x[0] = true ∧ isFinite (deemphInit 0#32).filt.y[0] = true ∧
    isFinite 0x7F800000#32 = false := by decide +kernel

/-- R312: the state after CONSTRUCT is a clean entry; a READY state in mid-session and one with a configuration that
CONSTRUCT rejects are none. -/
theorem test_cleanEntry :
    blockEntry (tst .unconf).configuration (constructInit (tst .unconf)) = true ∧
    cleanEntry { constructInit (tst .unconf) with blockCount := 1#32 } = false ∧
    blockEntry { (tst .unconf).configuration with decimN := 0#16 }
      { constructInit (tst .unconf) with decimN := 0#16 } = false := by
  refine ⟨by decide +kernel, Bool.eq_false_iff.mpr fun h => ?_, by decide +kernel⟩
  exact absurd (cleanEntry_fresh h).2.2.1 (by decide)

/-- A state inside a session that satisfies the invariant and steps. -/
theorem wit_StepKeepsTheInvariant :
    (issuing [] .ready).Inv ∧ ∃ t, step (issuing [] .ready) = .next t := by
  refine ⟨⟨?_, ?_, ?_, ?_, ?_, ?_, ?_, ?_, ?_, ?_, ?_, ?_, ?_⟩, ⟨_, rfl⟩⟩
  · intro _; decide
  · intro _; decide
  · intro _ _; decide
  · decide
  · intro _; rfl
  · decide
  · intro _; rfl
  · intro h; cases h
  · intro _; exact ⟨rfl, rfl⟩
  · intro h; cases h
  · intro h; cases h
  · intro h; exact absurd rfl h
  · intro i h; cases h

/-- The last sample that fits: a full window on a buffer of 8191. -/
theorem wit_PairsAppendOneSamplePerWindow :
    (tst .inblock).mode = .inblock ∧ (tst .inblock).dec.cnt < (tst .inblock).decimN ∧
    (tst .inblock).buf.length +
      ((tst .inblock).dec.cnt.toNat + [(0#8, 0#8), (1#8, 1#8)].length) / (tst .inblock).decimN.toNat ≤ 8192 ∧
    (filled 8191).buf.length +
      ((filled 8191).dec.cnt.toNat + [(0#8, 0#8)].length) / (filled 8191).decimN.toNat ≤ 8192 := by
  refine ⟨rfl, by decide, by decide, ?_⟩
  rw [filled, List.length_replicate]
  decide

theorem wit_OutputStreamOnlyGrows :
    (issuing [] .ready).Inv ∧ ∃ t, step (issuing [] .ready) = .next t ∧ t.mode ≠ .unconf :=
  ⟨wit_StepKeepsTheInvariant.1, _, rfl, by decide⟩

theorem wit_ConfigurationIsFrozenUntilReset :
    ∃ t, step (issuing [] .ready) = .next t ∧ (issuing [] .ready).mode ≠ .unconf ∧ t.mode ≠ .unconf :=
  ⟨_, rfl, by decide, by decide⟩

/-- Two sessions of one configuration whose Q bytes and Q smoothers differ. -/
theorem wit_ChannelsDoNotInteract :
    (tst .inblock).mode = .inblock ∧ ({ tst .inblock with bq := { Box.zero with sum := 7#32 } } : State).mode = .inblock ∧
    (∃ t, exec (.pair 1#8 2#8) (tst .inblock) = .next t) ∧
    (∃ t, exec (.pair 1#8 3#8) { tst .inblock with bq := { Box.zero with sum := 7#32 } } = .next t) ∧
    (tst .inblock).bi = ({ tst .inblock with bq := { Box.zero with sum := 7#32 } } : State).bi :=
  ⟨rfl, rfl, ⟨_, rfl⟩, ⟨_, rfl⟩, rfl⟩

end Sys2Proof.Tests
end

section
/-! The family 10_state.md: the values after reset, the invariant that every step keeps, the ready flag, and the
configuration that is frozen from CONSTRUCT to reset. -/

namespace Sys2Proof.Machine

variable {s t : State} {i : Instr}

/-! ### A decoded write is a well-formed instruction -/

/-- A table's answer is one of its rows. -/
theorem mem_of_lookup_eq_some {α β : Type} [BEq α] [LawfulBEq α] {l : List (α × β)} {k : α} {b : β}
    (h : l.lookup k = some b) : (k, b) ∈ l := by
  obtain ⟨front, back, rfl, -⟩ := List.lookup_eq_some_iff.mp h
  simp

/-- The field OP and the reserved bits of PAIR lie in the mask of its match (30_encoding.md R86, R90), so the match
fixes them. -/
theorem decodeCommand_of_pairMatch {w : Word} (h : w &&& 0xFFFF0000#32 = 0x11000000#32) :
    decodeCommand w = .pair (w.extractLsb' 0 8) (w.extractLsb' 8 8) := by
  have hfield (k : Nat) (hk : (0xFFFF0000#32).extractLsb' k 8 = BitVec.allOnes 8) :
      w.extractLsb' k 8 = (0x11000000#32).extractLsb' k 8 := by
    rw [← h, BitVec.extractLsb'_and, hk, BitVec.and_allOnes]
  have hop : cmdOp w = 0x11#8 := hfield 24 (by decide)
  have hres : w.extractLsb' 16 8 = 0#8 := hfield 16 (by decide)
  simp [decodeCommand, hop, hres]

/-- Where no legal command is decoded, the word itself is called illegal. -/
theorem decodeCommand_cases (w : Word) :
    decodeCommand w = .illegal w ∨ (decodeCommand w).instr.wf = true := by
  have hplain : ∀ p ∈ plainCommands, p.2.instr.wf = true := by decide
  unfold decodeCommand
  split
  · split
    · exact .inr rfl
    · exact .inl rfl
  · split
    next c hc =>
      split
      · exact .inr (hplain _ (mem_of_lookup_eq_some hc))
      · exact .inl rfl
    next => exact .inl rfl

/-- A decoded command word is a well-formed instruction (30_encoding.md R91). -/
theorem decodeCommand_instr_wf (w : Word) : (decodeCommand w).instr.wf = true := by
  by_cases hp : w &&& 0xFFFF0000#32 = 0x11000000#32
  · rw [decodeCommand_of_pairMatch hp]
    rfl
  · cases hl : cmdLegal w with
    | true =>
      simp only [cmdLegal, Bool.or_eq_true, beq_iff_eq, hp, or_false] at hl
      rcases hl with (((rfl | rfl) | rfl) | rfl) | rfl <;> decide
    | false =>
      rcases decodeCommand_cases w with h | h
      · rw [h]
        simp [Command.instr, Instr.wf, hl]
      · exact h

/-- Every row of the access maps is well-formed whatever the data word (30_encoding.md R90). -/
theorem accessTable_wf (write : Bool) (v : Word) :
    ∀ p ∈ if write then writeTable v else readTable, p.2.wf = true := by
  cases write with
  | false => simp [readTable, Instr.wf]
  | true => simp [writeTable, Instr.wf]

/-- A write that the decoder gives is well-formed; a bus error is no write. -/
theorem wf_of_decode_isWrite {q : Transaction} (h : decode q = .ok i) (hw : isWrite i = true) : i.wf = true := by
  cases q with
  | cmd w =>
    cases h
    exact decodeCommand_instr_wf w
  | busacc a =>
    simp only [decode, decodeAccess] at h
    split at h
    · cases h
    · split at h
      · cases h
        cases hw
      · cases h
        cases hr : (if descWrite a.desc then writeTable a.data else readTable).lookup (descOff a.desc) with
        | none => simp [hr, isWrite] at hw
        | some j => exact accessTable_wf _ _ _ (mem_of_lookup_eq_some hr)

/-! ### The invariant under each operation

Each lemma names only the clauses that its operation touches; the others are the old state's. -/

/-- A legal configuration has a window of at least one input (60_exceptions.md R272). -/
theorem decimN_pos (h : constructCheck s = .none) : 0#16 < s.decimN := by
  obtain ⟨-, hn, -⟩ := (constructCheck_none_iff s).mp h
  bv_omega

/-- A legal configuration of the box smoothers has a window that is not empty (60_exceptions.md R272). -/
theorem boxN_pos (h : constructCheck s = .none) (hs : s.ctrl.smooth = .box) : 0 < s.boxN.toNat := by
  obtain ⟨-, -, hbox⟩ := (constructCheck_none_iff s).mp h
  exact Nat.pos_of_ne_zero fun hz => (hbox hs).1 (BitVec.eq_of_toNat_eq hz)

/-- The box index cycles below the end of its window (42_box_filter.md R135). -/
theorem nextIdx_lt {n : Nat} (hn : 0 < n) (idx : Fin Config.boxMax) : (nextIdx n idx).val < n :=
  (Nat.mod_le _ _).trans_lt (Nat.mod_lt _ hn)

/-- The decimator's counter stays below N (44_decimator.md R170). -/
theorem decIn_cnt_lt {n : BitVec 16} {d : Decim} (h : d.cnt < n) (v : F32) : (decIn n d v).cnt < n := by
  rcases decIn_cases n d v with ⟨hn, he⟩ | ⟨hn, he⟩ <;> rw [he] <;> bv_omega

/-- A ready cycle starts the next window from zero (44_decimator.md R170). -/
theorem decIn_readyClears {n : BitVec 16} {d : Decim} {v : F32} (h : (decIn n d v).ready = true) :
    (decIn n d v).sum = posZero ∧ (decIn n d v).cnt = 0#16 := by
  rcases decIn_cases n d v with ⟨-, he⟩ | ⟨-, he⟩ <;> rw [he] at h ⊢
  · exact ⟨rfl, rfl⟩
  · cases h

/-- A constructed state is neither FAULT nor UNCONF (10_state.md R29). -/
theorem ne_of_constructed {m : Mode} (h : constructed m = true) : m ≠ .fault ∧ m ≠ .unconf := by
  simp only [constructed, Bool.or_eq_true, beq_iff_eq] at h
  rcases h with (rfl | rfl) | rfl <;> decide

namespace State.Inv

/-- The invariant says nothing of what belongs to the Host and the Sink. -/
theorem ofAgents (h : s.Inv) (log : List (List Sample)) (rds : List Word) (q : List Transaction) (sch : List Agent) :
    State.Inv { s with sinkLog := log, reads := rds, hostQueue := q, schedule := sch } :=
  { h with }

/-- The held write's turn comes. -/
theorem release (h : s.Inv) : State.Inv { s with held := none } :=
  { h with
    heldMode := fun hne => absurd rfl hne
    heldIsWrite := fun _ hi => by cases hi }

/-- A well-formed write is held in FLUSH (20_memory.md R68). -/
theorem hold (h : s.Inv) (hm : s.mode = .flush) (hw : isWrite i = true) (hwf : i.wf = true) :
    State.Inv { s with held := some i } :=
  { h with
    heldMode := fun _ => .inl hm
    heldIsWrite := fun _ hi => by
      cases hi
      exact ⟨hw, hwf⟩ }

/-- No fault code stands outside FAULT. -/
theorem err_eq_none (h : s.Inv) (hm : s.mode ≠ .fault) : s.err = .none := h.errIffFault.mpr hm

/-- Fault entry, with no write held (60_exceptions.md R276). -/
theorem raiseFault (h : s.Inv) (hh : s.held = none) {c : ErrCode} (hc : c ≠ .none) (w : Word) :
    (raiseFault c w s).Inv :=
  { h with
    configLegal := fun hm => by cases hm
    cntBelowN := fun hm => by cases hm
    idxBelowN := fun hm => by cases hm
    emptyOutsideBlock := fun hm => by simp at hm
    errIffFault := by simp [hc]
    errCmdZero := fun hm => absurd rfl hm
    unitsAtReset := fun hm => by cases hm
    heldMode := fun hne => absurd hh hne }

/-- The state after reset satisfies every clause (70_reset_and_hazards.md R302). -/
theorem reset : State.reset.Inv where
  configLegal hm := by cases hm
  cntBelowN hm := by cases hm
  idxBelowN hm := by cases hm
  lenBounded := Nat.zero_le _
  emptyOutsideBlock _ := rfl
  errIffFault := by simp
  errCmdZero _ := rfl
  unusedBox _ := ⟨rfl, rfl⟩
  unusedIir _ := ⟨rfl, rfl⟩
  unitsAtReset _ := ⟨rfl, rfl, rfl, rfl, rfl, rfl, rfl, rfl, rfl, rfl⟩
  readyClears hr := by cases hr
  heldMode hne := absurd rfl hne
  heldIsWrite _ hi := by cases hi

/-- RESET, with no write held (47_host_interface.md R211). -/
theorem resetAction (hh : s.held = none) : (resetAction s).Inv :=
  { State.Inv.reset with
    heldMode := fun hne => absurd hh hne
    heldIsWrite := fun _ hi => by cases hh.symm.trans hi }

/-- HW_RESET, which aborts a held write (70_reset_and_hazards.md R300). -/
theorem hwReset (s : State) : (hwReset s).Inv := { State.Inv.reset with }

/-- A CONSTRUCT whose checks pass (47_host_interface.md R212). -/
theorem constructInit (h : s.Inv) (hm : s.mode = .unconf) (hc : constructCheck s = .none) : (constructInit s).Inv :=
  have hf : s.mode ≠ .fault := by simp [hm]
  { h with
    configLegal := fun _ => hc
    cntBelowN := fun _ => decimN_pos hc
    idxBelowN := fun _ hs => ⟨boxN_pos hc hs, boxN_pos hc hs⟩
    lenBounded := Nat.zero_le _
    emptyOutsideBlock := fun _ => rfl
    errIffFault := by simp [h.err_eq_none hf]
    errCmdZero := fun _ => h.errCmdZero hf
    unusedBox := fun _ => ⟨rfl, rfl⟩
    unusedIir := fun _ => ⟨rfl, rfl⟩
    unitsAtReset := fun hu => by cases hu
    readyClears := fun hr => by cases hr
    heldMode := fun _ => .inr rfl }

/-- A move between the states of a constructed pipeline, with the buffer and
the held write as the new state asks. -/
theorem moveTo (h : s.Inv) (hs : constructed s.mode = true) {m : Mode} (hm : constructed m = true)
    (hb : m = .ready → s.buf = []) (hh : s.held ≠ none → m = .flush ∨ m = .ready) :
    State.Inv { s with mode := m } :=
  have ⟨hsf, _⟩ := ne_of_constructed hs
  have ⟨hmf, hmu⟩ := ne_of_constructed hm
  { h with
    configLegal := fun _ => h.configLegal hs
    cntBelowN := fun _ => h.cntBelowN hs
    idxBelowN := fun _ => h.idxBelowN hs
    emptyOutsideBlock := fun he => hb (he.resolve_left hmu)
    errIffFault := by simp [h.err_eq_none hsf, hmf]
    errCmdZero := fun _ => h.errCmdZero hsf
    unitsAtReset := fun hu => absurd hu hmu
    heldMode := hh }

/-- A configuration write, in UNCONF (47_host_interface.md R216 to R220). -/
theorem configure (h : s.Inv) (hm : s.mode = .unconf) (c : Ctrl) (d b : BitVec 16) (e k : F32) :
    State.Inv { s with ctrl := c, decimN := d, boxN := b, deemphD := e, scale := k } :=
  have hnc : constructed s.mode ≠ true := by simp [hm, constructed]
  { h with
    configLegal := fun hcon => absurd hcon hnc
    cntBelowN := fun hcon => absurd hcon hnc
    idxBelowN := fun hcon => absurd hcon hnc
    unusedBox := fun _ => by
      obtain ⟨-, -, hbi, hbq, -⟩ := h.unitsAtReset hm
      exact ⟨hbi, hbq⟩
    unusedIir := fun _ => by
      obtain ⟨hsi, hsq, -⟩ := h.unitsAtReset hm
      exact ⟨hsi, hsq⟩ }

/-- The Sink's acceptance (46_pipeline.md R203). -/
theorem sinkAccept (h : s.Inv) : (sinkAccept s).Inv := by
  rcases sinkAccept_cases s with ⟨hm, he⟩ | ⟨-, he⟩ <;> rw [he]
  · have hempty : State.Inv { s with sinkLog := s.sinkLog ++ [s.buf], buf := [], blockCount := s.blockCount + 1#32 } :=
      { h with
        lenBounded := Nat.zero_le _
        emptyOutsideBlock := fun _ => rfl
        unitsAtReset := fun hu => by cases hm.symm.trans hu }
    exact hempty.moveTo (m := .ready) (by simp [hm, constructed]) (by decide) (fun _ => rfl) (fun _ => .inr rfl)
  · exact h

/-! ### The pair step, in INBLOCK -/

/-- Only the selected smoothers move, and a box index stays in its window (42_box_filter.md R135, R138). -/
theorem smooth (h : s.Inv) (hm : s.mode = .inblock) (u v : F32) : (smooth u v s).Inv := by
  have hu : s.mode ≠ .unconf := by simp [hm]
  have hcon : constructed s.mode = true := by simp [hm, constructed]
  unfold Machine.smooth
  cases hs : s.ctrl.smooth with
  | recursive =>
    exact
      { h with
        unusedIir := fun hb => by cases hs.symm.trans hb
        unitsAtReset := fun hm' => absurd hm' hu }
  | box =>
    have hn := boxN_pos (h.configLegal hcon) hs
    exact
      { h with
        idxBelowN := fun _ _ => ⟨nextIdx_lt hn _, nextIdx_lt hn _⟩
        unusedBox := fun hr => by cases hs.symm.trans hr
        unitsAtReset := fun hm' => absurd hm' hu }

/-- The discriminator's state is free outside UNCONF. -/
theorem discriminate (h : s.Inv) (hm : s.mode = .inblock) (np : NormPoint) : (discriminate np s).Inv :=
  { h with unitsAtReset := fun hu => by cases hm.symm.trans hu }

/-- The counter stays below N and a ready cycle clears it (44_decimator.md R170). -/
theorem decimate (h : s.Inv) (hm : s.mode = .inblock) : (decimate s).Inv :=
  { h with
    cntBelowN := fun hcon => decIn_cnt_lt (h.cntBelowN hcon) _
    unitsAtReset := fun hu => by cases hm.symm.trans hu
    readyClears := decIn_readyClears }

theorem pairFront (h : s.Inv) (hm : s.mode = .inblock) (np : NormPoint) (ib qb : Byte) : (pairFront np ib qb s).Inv :=
  ((h.smooth hm _ _).discriminate (by simp [hm]) np).decimate (by simp [hm])

/-- EMIT keeps the buffer within its capacity, or raises OUT_OVERFLOW (46_pipeline.md R195). -/
theorem emit (h : s.Inv) (hm : s.mode = .inblock) (hh : s.held = none) (w : Word) : (emit w s).Inv := by
  have hde : State.Inv { s with de := deemphIn s.de s.dec.out } :=
    { h with unitsAtReset := fun hu => by cases hm.symm.trans hu }
  rcases emit_cases w s with ⟨-, he⟩ | ⟨hne, he⟩ <;> rw [he]
  · exact hde.raiseFault hh (by decide) w
  · exact
      { hde with
        lenBounded := by
          have hlt : s.buf.length < Config.outbufDepth := lt_of_le_of_ne h.lenBounded hne
          simpa [outLen] using hlt
        emptyOutsideBlock := fun he => by simp [hm] at he
        unitsAtReset := fun hu => by cases hm.symm.trans hu }

theorem pairStep (h : s.Inv) (hm : s.mode = .inblock) (hh : s.held = none) (np : NormPoint) (ib qb : Byte) (w : Word) :
    (pairStep np ib qb w s).Inv := by
  have hfront := h.pairFront hm np ib qb
  rcases pairStep_cases np ib qb w s with ⟨-, he⟩ | ⟨-, he⟩ <;> rw [he]
  · exact hfront
  · exact hfront.emit (by simp [Machine.pairFront, hm]) (by simp [Machine.pairFront, hh]) w

/-! ### Executing an instruction, and a step -/

/-- Every effect keeps the invariant, where no write is held when the instruction executes and a write is a
well-formed one. -/
theorem ofEffect (h : s.Inv) (hh : s.held = none) (hwf : isWrite i = true → i.wf = true) (he : Effect i s t) :
    t.Inv := by
  cases he with
  | same => exact h
  | read _ v => exact h.ofAgents ..
  | hold hw hm => exact h.hold hm hw (hwf hw)
  | fault _ _ _ c info hc => exact h.raiseFault hh hc info
  | reset => exact .resetAction hh
  | construct _ hm hc => exact h.constructInit hm hc
  | blockBegin _ hm =>
    exact h.moveTo (by simp [hm, constructed]) (by decide) (by simp) (fun hne => absurd hh hne)
  | pair _ hm ib qb => exact h.pairStep hm hh ..
  | blockEnd _ hm =>
    exact h.moveTo (by simp [hm, constructed]) (by decide) (by simp) (fun hne => absurd hh hne)
  | config _ hm c d b e k => exact h.configure hm ..

theorem hostStep {x : Bool} (h : s.Inv) (hn : hostStep x s = .next t) : t.Inv := by
  rcases hostStep_next hn with ⟨-, -, rfl⟩ | ⟨-, -, rfl⟩ | ⟨i, hi, -, he⟩ | ⟨q, rest, i, hh, -, hd, he⟩
  · exact h
  · exact h
  · exact h.release.ofEffect rfl (fun _ => (h.heldIsWrite i hi).2) (exec_effect he)
  · exact (h.ofAgents s.sinkLog s.reads rest s.schedule).ofEffect hh (wf_of_decode_isWrite hd) (exec_effect he)

theorem step (h : s.Inv) (hn : step s = .next t) : t.Inv := by
  rcases step_cases s with ⟨-, he⟩ | ⟨r, -, he⟩ | ⟨r, -, he⟩ | ⟨r, -, he⟩ <;> rw [he] at hn
  · exact h.hostStep hn
  · exact (h.ofAgents ..).hostStep hn
  · cases hn
    exact (h.ofAgents ..).sinkAccept
  · cases hn
    exact .hwReset _

end State.Inv

/-- Settles O56: each effect of an instruction, the Sink's acceptance and HW_RESET keep every clause. -/
theorem stepKeepsTheInvariant : Obligations.StepKeepsTheInvariant := fun _ _ h hn => h.step hn

/-- Settles O55: the reset values meet each clause, most of them because UNCONF is no constructed state. -/
theorem resetSatisfiesTheInvariant : Obligations.ResetSatisfiesTheInvariant := State.Inv.reset

/-! ### The frozen configuration -/

theorem pairStep_configuration (np : NormPoint) (ib qb : Byte) (w : Word) (s : State) :
    (pairStep np ib qb w s).configuration = s.configuration := by
  have hfront : (pairFront np ib qb s).configuration = s.configuration := by
    simp [State.configuration, pairFront]
  rcases pairStep_cases np ib qb w s with ⟨-, he⟩ | ⟨-, he⟩ <;> rw [he]
  · exact hfront
  · rcases emit_cases w (pairFront np ib qb s) with ⟨-, he⟩ | ⟨-, he⟩ <;> rw [he]
    · exact hfront
    · exact hfront

/-- Of the effects, only RESET and a configuration write change the configuration; the one ends in UNCONF, the other
starts there. -/
theorem Effect.configuration_eq (h : Effect i s t) (hs : s.mode ≠ .unconf) (ht : t.mode ≠ .unconf) :
    t.configuration = s.configuration := by
  cases h with
  | reset => exact absurd rfl ht
  | config _ hm => exact absurd hm hs
  | pair => exact pairStep_configuration ..
  | same | read | hold | fault | construct | blockBegin | blockEnd => rfl

theorem hostStep_configuration {x : Bool} (h : hostStep x s = .next t) (hs : s.mode ≠ .unconf)
    (ht : t.mode ≠ .unconf) : t.configuration = s.configuration := by
  rcases hostStep_next h with ⟨-, -, rfl⟩ | ⟨-, -, rfl⟩ | ⟨i, -, -, he⟩ | ⟨q, rest, i, -, -, -, he⟩
  · rfl
  · rfl
  · exact (exec_effect he).configuration_eq hs ht
  · exact (exec_effect he).configuration_eq hs ht

theorem sinkAccept_configuration (s : State) : (sinkAccept s).configuration = s.configuration := by
  rcases sinkAccept_cases s with ⟨-, he⟩ | ⟨-, he⟩ <;> rw [he]
  rfl

theorem step_configuration (h : step s = .next t) (hs : s.mode ≠ .unconf) (ht : t.mode ≠ .unconf) :
    t.configuration = s.configuration := by
  rcases step_cases s with ⟨-, he⟩ | ⟨r, -, he⟩ | ⟨r, -, he⟩ | ⟨r, -, he⟩ <;> rw [he] at h
  · exact hostStep_configuration h hs ht
  · exact hostStep_configuration (s := { s with schedule := r }) h hs ht
  · cases h
    exact sinkAccept_configuration _
  · cases h
    exact absurd rfl ht

/-- Settles O59: no effect changes the configuration but RESET and a configuration write. -/
theorem configurationIsFrozenUntilReset : Obligations.ConfigurationIsFrozenUntilReset := by
  intro s t h hs ht
  have hc := step_configuration h hs ht
  simpa only [State.configuration, Configuration.mk.injEq] using hc

/-! ### The ready flag -/

/-- EMIT leaves the decimator as it is. -/
theorem emit_dec (w : Word) (s : State) : (emit w s).dec = s.dec := by
  rcases emit_cases w s with ⟨-, he⟩ | ⟨-, he⟩ <;> rw [he]
  rfl

/-- The pair step sets `dec_ready` exactly when its input completes the window (44_decimator.md R170). -/
theorem pairStep_ready (np : NormPoint) (ib qb : Byte) (w : Word) (s : State) :
    (pairStep np ib qb w s).dec.ready = decide (s.dec.cnt + 1#16 = s.decimN) := by
  have hdec : (pairStep np ib qb w s).dec = (pairFront np ib qb s).dec := by
    rcases pairStep_cases np ib qb w s with ⟨-, he⟩ | ⟨-, he⟩ <;> rw [he]
    exact emit_dec ..
  rw [hdec, pairFront, decimate_dec]
  simp only [discriminate_dec, discriminate_decimN, smooth_dec, smooth_decimN]
  rcases decIn_cases s.decimN s.dec _ with ⟨hn, he⟩ | ⟨hn, he⟩ <;> rw [he] <;> simp [hn]

/-- A write keeps the decimator where its effect, outside FLUSH, does. -/
theorem issueWrite_dec {e : State → State} (h : s.mode ≠ .flush → (e s).dec = s.dec) :
    (issueWrite i e s).dec = s.dec := by
  rcases issueWrite_cases i e s with ⟨-, he⟩ | ⟨hm, he⟩ <;> rw [he]
  exact h hm

/-- A command keeps the decimator where its effect, in the state in which it is legal, does. -/
theorem commandIn_dec {legal : Mode} {w : Word} {e : State → State} (h : s.mode = legal → (e s).dec = s.dec) :
    (commandIn legal w e s).dec = s.dec := by
  rcases commandIn_cases legal w e s with ⟨-, he⟩ | ⟨-, hm, he⟩ | ⟨-, -, he⟩ <;> rw [he]
  · exact h hm
  · rfl

/-- A configuration write keeps the decimator. -/
theorem configWrite_dec {off : Offset} {st : State → State} (h : (st s).dec = s.dec) :
    (configWrite off st s).dec = s.dec := by
  rcases configWrite_cases off st s with ⟨-, he⟩ | ⟨-, he⟩ | ⟨-, he⟩ <;> rw [he]
  · exact h
  · rfl

theorem exec_pair_inblock (hm : s.mode = .inblock) (ib qb : Byte) :
    exec (.pair ib qb) s = .next (pairStep Config.normPoint ib qb (pairWord ib qb) s) := by
  simp [exec, execPair, issueWrite, pairEffect, commandIn, hm]

theorem exec_reset_run (hm : s.mode ≠ .flush) : exec .reset s = .next (resetAction s) := by
  simp [exec, execReset, issueWrite, resetEffect, hm]

theorem exec_construct_unconf (hm : s.mode = .unconf) : exec .construct s = .next (construct s) := by
  simp [exec, execConstruct, issueWrite, constructEffect, commandIn, hm]

/-- The decimator is kept by every transaction but a PAIR in INBLOCK, an executed RESET and a CONSTRUCT that succeeds;
WR CMD is apart, as its word may be any of them. -/
theorem exec_dec_eq (h : exec i s = .next t) (hcmd : ∀ v, i ≠ .wrCmd v)
    (hpair : ¬ (s.mode = .inblock ∧ ∃ ib qb, i = .pair ib qb)) (hreset : ¬ (i = .reset ∧ s.mode ≠ .flush))
    (hcon : ¬ (i = .construct ∧ t.mode = .ready ∧ s.mode = .unconf)) : t.dec = s.dec := by
  cases i with
  | wrCmd v => exact absurd rfl (hcmd v)
  | pair ib qb =>
    cases h
    exact issueWrite_dec fun _ => commandIn_dec fun hm => absurd ⟨hm, ib, qb, rfl⟩ hpair
  | reset =>
    cases h
    exact issueWrite_dec fun hm => absurd ⟨rfl, hm⟩ hreset
  | construct =>
    by_cases hu : s.mode = .unconf
    · cases (exec_construct_unconf hu).symm.trans h
      rcases construct_cases s with ⟨-, he⟩ | ⟨-, he⟩
      · exact absurd ⟨rfl, by simp [he], hu⟩ hcon
      · simp [he]
    · cases h
      exact issueWrite_dec fun _ => commandIn_dec fun hm => absurd hm hu
  | nop =>
    cases h
    exact issueWrite_dec fun _ => rfl
  | blockBegin | blockEnd =>
    cases h
    exact issueWrite_dec fun _ => commandIn_dec fun _ => rfl
  | illegalCmd w =>
    cases h
    refine issueWrite_dec fun _ => ?_
    unfold illegalEffect
    split <;> rfl
  | wrCtrl | wrDecimN | wrBoxN | wrDeemphD | wrScale =>
    cases h
    exact issueWrite_dec fun _ => configWrite_dec rfl
  | wrId | wrStatus | wrErrCmd | wrOutCount | wrPairCount | wrPcmCount | wrBlockCount | wrDecimCnt | wrDbgSmoothI
  | wrDbgSmoothQ | wrDbgPhase | wrDbgDecimOut | wrDbgDeemphOut | wrCaps | busError => cases h
  | rdId | rdCtrl | rdDecimN | rdBoxN | rdDeemphD | rdScale | rdCmd | rdStatus | rdErrCmd | rdOutCount | rdPairCount
  | rdPcmCount | rdBlockCount | rdDecimCnt | rdDbgSmoothI | rdDbgSmoothQ | rdDbgPhase | rdDbgDecimOut
  | rdDbgDeemphOut | rdCaps =>
    cases h
    rfl

/-- Settles O33: the three transactions that write the flag, each by its own next state, and the frame of the rest. -/
theorem readyFlagIsWrittenOnlyByThePairStep : Obligations.ReadyFlagIsWrittenOnlyByThePairStep := by
  intro i s t hcmd h
  refine ⟨?_, ?_, ?_, ?_⟩
  · rintro hm ⟨ib, qb, rfl⟩
    cases (exec_pair_inblock hm ib qb).symm.trans h
    exact pairStep_ready ..
  · rintro rfl hm
    cases (exec_reset_run hm).symm.trans h
    rfl
  · rintro rfl hready hu
    cases (exec_construct_unconf hu).symm.trans h
    rcases construct_cases s with ⟨-, he⟩ | ⟨-, he⟩ <;> rw [he] at hready ⊢
    · rfl
    · cases hready
  · intro hpair hreset hcon
    rw [exec_dec_eq h hcmd hpair hreset hcon]

/-! ### The values after reset -/

/-- Every selector is a member of ORDERS (00_scope.md R7). -/
theorem orderCode_mem_orders (o : Order) : o.code ∈ Config.orders := by
  cases o <;> decide

/-- Settles O21: every value is R55's by definition, DEFAULT_ORDER a selector whatever it is. -/
theorem resetStateHoldsTheTabulatedValues : Obligations.ResetStateHoldsTheTabulatedValues :=
  ⟨rfl, rfl, orderCode_mem_orders _, rfl, rfl, rfl, rfl, rfl, rfl, rfl, rfl, rfl, rfl, rfl, rfl, rfl, rfl,
    rfl, rfl, rfl, rfl, rfl⟩

end Sys2Proof.Machine
end

section
/-! The family 20_memory.md: the bus errors, the register window, the hold of a write in FLUSH, and the bytes of a
delivered block. -/

namespace Sys2Proof.Machine

variable {s : State} {i : Instr}

/-! ### Bus errors -/

/-- The mapped offsets in numbers: the multiples of 4 below 0x050. -/
theorem mapped_iff (off : Offset) : mapped off = true ↔ off.toNat % 4 = 0 ∧ off.toNat < 0x050 := by
  have hlow : off &&& 3#12 = 0#12 ↔ off.toNat % 4 = 0 := by
    rw [← BitVec.toNat_inj, BitVec.toNat_and]
    exact iff_of_eq (congrArg (· = 0) (Nat.and_two_pow_sub_one_eq_mod off.toNat 2))
  have hlt : off < 0x050#12 ↔ off.toNat < 0x050 := Iff.rfl
  simp [mapped, hlow, hlt]

theorem isBusError_iff (off : Offset) (width : AccessWidth) (lanes : BitVec 4) :
    isBusError off width lanes = true ↔
      width ≠ .w32 ∨ lanes ≠ 0xF#4 ∨ off.toNat % 4 ≠ 0 ∨ 0x050 ≤ off.toNat := by
  have hmap : mapped off = false ↔ off.toNat % 4 ≠ 0 ∨ 0x050 ≤ off.toNat := by
    rw [Bool.eq_false_iff, ne_eq, mapped_iff, not_and_or, not_lt]
  simp only [isBusError, Bool.or_eq_true, Bool.not_eq_true', bne_iff_ne, hmap]
  tauto

/-- Every mapped offset has a row in both access maps (30_encoding.md R90). -/
theorem mem_accessTable_offsets {off : Offset} (h : mapped off = true) (write : Bool) (v : Word) :
    off ∈ (if write then writeTable v else readTable).map Prod.fst := by
  have hread : off ∈ readTable.map Prod.fst := by
    obtain ⟨hmod, hlt⟩ := (mapped_iff off).mp h
    rw [readTable_offsets, List.mem_map]
    refine ⟨off.toNat / 4, List.mem_range.mpr (by omega), ?_⟩
    rw [Nat.mul_div_cancel' (Nat.dvd_of_mod_eq_zero hmod), BitVec.ofNat_toNat, BitVec.setWidth_eq]
  cases write with
  | false => exact hread
  | true => exact writeTable_offsets v ▸ hread

/-- No row of the access maps is a bus error. -/
theorem accessTable_ne_busError (write : Bool) (v : Word) :
    ∀ p ∈ if write then writeTable v else readTable, ∀ w off k l, p.2 ≠ .busError w off k l := by
  cases write with
  | false => simp [readTable]
  | true => simp [writeTable]

/-- An access that R62 and R63 allow decodes to a row of the access maps. -/
theorem decode_row_of_not_busError {a : Access} (hres : descReserved a.desc = 0#3)
    (h : isBusError (descOff a.desc) a.width a.lanes = false) :
    ∃ j, decode (.busacc a) = .ok j ∧
      (descOff a.desc, j) ∈ if descWrite a.desc then writeTable a.data else readTable := by
  have hmap : mapped (descOff a.desc) = true := by
    simp only [isBusError, Bool.or_eq_false_iff, Bool.not_eq_false'] at h
    exact h.1.1
  cases hl : (if descWrite a.desc then writeTable a.data else readTable).lookup (descOff a.desc) with
  | none =>
    obtain ⟨p, hp, hoff⟩ := List.mem_map.mp (mem_accessTable_offsets hmap (descWrite a.desc) a.data)
    exact absurd hoff.symm (by simpa using List.lookup_eq_none_iff.mp hl p hp)
  | some j => exact ⟨j, by simp [decode, decodeAccess, hres, h, hl], mem_of_lookup_eq_some hl⟩

theorem decode_busError {a : Access} (hres : descReserved a.desc = 0#3)
    (h : isBusError (descOff a.desc) a.width a.lanes = true) :
    decode (.busacc a) = .ok (.busError (descWrite a.desc) (descOff a.desc) a.width a.lanes) := by
  simp [decode, decodeAccess, hres, h]

/-- Settles O4: the bus errors are the accesses at which the decoder does not reach its maps, and no row of a map is
one. -/
theorem busErrorsAreTheBrokenAccesses : Obligations.BusErrorsAreTheBrokenAccesses := by
  refine ⟨fun a hres => ?_, fun _ _ _ _ _ => rfl⟩
  rw [← isBusError_iff]
  constructor
  · exact fun h => ⟨_, _, _, _, decode_busError hres h⟩
  · rintro ⟨w, off, k, l, hd⟩
    by_contra hb
    obtain ⟨j, hj, hrow⟩ := decode_row_of_not_busError hres (Bool.eq_false_iff.mpr hb)
    exact accessTable_ne_busError _ _ _ hrow w off k l (Except.ok.inj (hj.symm.trans hd))

/-! ### The register window -/

/-- BASE is 4 KiB aligned whatever its free page (20_memory.md R60). -/
theorem base_aligned : Config.base % 4096 = 0 := by
  unfold Config.base
  exact Nat.mul_mod_left ..

theorem windowOffset_base_add (off : Offset) : windowOffset (Config.base + off.toNat) = some off := by
  simp [windowOffset, off.isLt]

theorem windowOffset_eq_none {addr : Nat} (h : addr < Config.base ∨ Config.base + 4096 ≤ addr) :
    windowOffset addr = none :=
  if_neg (by omega)

/-- Settles O11: inside the window an address is BASE and its offset, and outside it is none. -/
theorem windowAddressesAreBasePlusOffset : Obligations.WindowAddressesAreBasePlusOffset := by
  refine ⟨base_aligned, fun off v s => ?_, fun addr v s h => ?_⟩
  · unfold memRead memWrite
    rw [windowOffset_base_add]
    exact ⟨rfl, rfl⟩
  · unfold memRead memWrite
    rw [windowOffset_eq_none h]
    exact ⟨rfl, rfl⟩

/-! ### The Host's step -/

/-- A write that the bus accepts is issued: held in FLUSH, its effect elsewhere (47_host_interface.md R223). -/
theorem exec_eq_issueWrite (hw : isWrite i = true) : ∃ e, ∀ s, exec i s = .next (issueWrite i e s) := by
  cases i with
  | nop | reset | construct | blockBegin | pair | blockEnd | illegalCmd | wrCtrl | wrDecimN | wrBoxN | wrDeemphD
  | wrScale | wrCmd => exact ⟨_, fun _ => rfl⟩
  | wrId | wrStatus | wrErrCmd | wrOutCount | wrPairCount | wrPcmCount | wrBlockCount | wrDecimCnt | wrDbgSmoothI
  | wrDbgSmoothQ | wrDbgPhase | wrDbgDecimOut | wrDbgDeemphOut | wrCaps | busError
  | rdId | rdCtrl | rdDecimN | rdBoxN | rdDeemphD | rdScale | rdCmd | rdStatus | rdErrCmd | rdOutCount | rdPairCount
  | rdPcmCount | rdBlockCount | rdDecimCnt | rdDbgSmoothI | rdDbgSmoothQ | rdDbgPhase | rdDbgDecimOut
  | rdDbgDeemphOut | rdCaps => cases hw

theorem exec_write_flush (hw : isWrite i = true) (hm : s.mode = .flush) :
    exec i s = .next { s with held := some i } := by
  obtain ⟨e, he⟩ := exec_eq_issueWrite hw
  rw [he, issueWrite_flush hm]

theorem step_of_schedule_nil (h : s.schedule = []) : step s = hostStep true s := by
  simp [step, agentStep, h]

theorem step_of_host {r : List Agent} (h : s.schedule = .host :: r) :
    step s = hostStep false { s with schedule := r } := by
  simp [step, agentStep, h]

theorem step_of_sink {r : List Agent} (h : s.schedule = .sink :: r) :
    step s = .next (sinkAccept { s with schedule := r }) := by
  simp [step, agentStep, h]

/-- A held write waits while STATE = FLUSH. -/
theorem hostStep_held_flush (x : Bool) (hi : s.held = some i) (hm : s.mode = .flush) :
    hostStep x s = if x then .fault .hostStalled else .next s := by
  simp [hostStep, hi, hm]

/-- A held write executes once STATE has left FLUSH. -/
theorem hostStep_held_run (x : Bool) (hi : s.held = some i) (hm : s.mode ≠ .flush) :
    hostStep x s = exec i { s with held := none } := by
  simp [hostStep, hi, hm]

/-- After FLUSH the Host's own step runs the write it holds. -/
theorem step_host_held {r : List Agent} (hs : s.schedule = .host :: r) (hi : s.held = some i) (hm : s.mode ≠ .flush) :
    step s = exec i { s with held := none, schedule := r } := by
  rw [step_of_host hs, hostStep_held_run (s := { s with schedule := r }) false hi hm]

/-- With no write held, the Host issues its next transaction. -/
theorem hostStep_issue (x : Bool) {q : Transaction} {rest : List Transaction} (hh : s.held = none)
    (hq : s.hostQueue = q :: rest) (hd : decode q = .ok i) : hostStep x s = exec i { s with hostQueue := rest } := by
  simp [hostStep, hh, hq, hd]

/-- Settles O6: both schedules name the Host, and it issues. -/
theorem stepRunsTheDecodedInstruction : Obligations.StepRunsTheDecodedInstruction := by
  intro s q rest i hh hq hd
  refine ⟨fun hs => ?_, fun sched hs => ?_⟩
  · rw [step_of_schedule_nil hs, hostStep_issue true hh hq hd]
  · rw [step_of_host hs, hostStep_issue (s := { s with schedule := sched }) false hh hq hd]

/-- Settles O7: the Sink's acceptance keeps the held write and leaves READY, in which the Host's next step runs it. -/
theorem heldWriteWaitsForTheSink : Obligations.HeldWriteWaitsForTheSink := by
  intro s i hm hw
  refine ⟨exec_write_flush hw hm, fun t hm hi => ⟨fun hs => ?_, fun r hs => ?_, fun r hs => ?_⟩⟩
  · rw [step_of_schedule_nil hs, hostStep_held_flush true hi hm, if_pos rfl]
  · rw [step_of_host hs, hostStep_held_flush (s := { t with schedule := r }) false hi hm]
    rfl
  · obtain ⟨-, he⟩ := (sinkAccept_cases { t with schedule := .host :: r }).resolve_right fun h => h.1 hm
    rw [step_of_sink hs, he]
    exact ⟨_, rfl, rfl, rfl, rfl, hi, step_host_held rfl hi (by simp)⟩

/-! ### The bytes of a block -/

theorem blockBytes_cons (p : Sample) (b : List Sample) :
    blockBytes (p :: b) = p.extractLsb' 0 8 :: p.extractLsb' 8 8 :: blockBytes b := rfl

theorem blockBytes_length (b : List Sample) : (blockBytes b).length = 2 * b.length := by
  induction b with
  | nil => rfl
  | cons p b ih =>
    rw [blockBytes_cons, List.length_cons, List.length_cons, List.length_cons, ih]
    omega

theorem blockBytes_getElem? {b : List Sample} {k : Nat} {p : Sample} (h : b[k]? = some p) :
    (blockBytes b)[2 * k]? = some (p.extractLsb' 0 8) ∧ (blockBytes b)[2 * k + 1]? = some (p.extractLsb' 8 8) := by
  induction b generalizing k with
  | nil => cases h
  | cons c b ih =>
    cases k with
    | zero =>
      cases h
      exact ⟨rfl, rfl⟩
    | succ k => exact ih h

/-- Settles O12: the head sample is the first two bytes, and the others move by two. -/
theorem blocksAreDeliveredLittleEndian : Obligations.BlocksAreDeliveredLittleEndian :=
  fun b => ⟨blockBytes_length b, fun _ _ => blockBytes_getElem?⟩

end Sys2Proof.Machine
end

section
/-! The family 30_encoding.md: the command words and their fields, the accesses and their descriptors, and the fields
that the configuration registers keep of a data word. -/

namespace Sys2Proof.Machine

variable {s : State} {i : Instr}

/-! ### Command words -/

/-- A word is its fields OP and PAYLOAD (30_encoding.md R82). -/
theorem cmdOp_append_cmdPayload (w : Word) : cmdOp w ++ cmdPayload w = w :=
  BitVec.extractLsb'_append_extractLsb' (w := 8) (len := 24)

/-- A word is its four bytes. -/
theorem bytes_append (w : Word) :
    w.extractLsb' 24 8 ++ w.extractLsb' 16 8 ++ w.extractLsb' 8 8 ++ w.extractLsb' 0 8 = w := by
  simp only [BitVec.extractLsb'_append_extractLsb'_eq_extractLsb']
  exact BitVec.extractLsb'_eq_self

/-- Encoding what a command word decodes to gives the word back, an illegal one too: the checks of
30_encoding.md R82 leave no bit open that the command does not carry. -/
theorem encode_decodeCommand (w : Word) : encode (decodeCommand w).instr = .cmd w := by
  have hplain : ∀ p ∈ plainCommands, encode p.2.instr = .cmd (p.1 ++ 0#24) := by decide
  unfold decodeCommand
  split
  next hop =>
    split
    next hres =>
      change Transaction.cmd (pairWord (w.extractLsb' 0 8) (w.extractLsb' 8 8)) = .cmd w
      rw [pairWord, ← hop, ← hres]
      exact congrArg Transaction.cmd (bytes_append w)
    next => rfl
  next =>
    split
    next c hc =>
      split
      next hpay => rw [hplain _ (mem_of_lookup_eq_some hc), ← hpay, cmdOp_append_cmdPayload]
      next => rfl
    next => rfl

theorem decodeCommand_injective : Function.Injective decodeCommand := fun v w h => by
  have henc := encode_decodeCommand v
  rw [h, encode_decodeCommand] at henc
  exact (Transaction.cmd.inj henc).symm

/-- The word of PAIR matches under its mask, whatever its bytes (30_encoding.md R86). -/
theorem pairWord_match (ib qb : Byte) : pairWord ib qb &&& 0xFFFF0000#32 = 0x11000000#32 := by
  have hmask : 0xFFFF0000#32 = 0xFF#8 ++ 0xFF#8 ++ 0#8 ++ 0#8 := rfl
  rw [pairWord, hmask, BitVec.and_append, BitVec.and_append, BitVec.and_zero, BitVec.and_zero]
  rfl

theorem pairWord_I (ib qb : Byte) : (pairWord ib qb).extractLsb' 0 8 = ib := BitVec.extractLsb'_append_eq_right

theorem pairWord_Q (ib qb : Byte) : (pairWord ib qb).extractLsb' 8 8 = qb := by
  rw [pairWord, BitVec.extractLsb'_append_eq_of_le (by decide)]
  exact BitVec.extractLsb'_append_eq_right

theorem decodeCommand_pairWord (ib qb : Byte) : decodeCommand (pairWord ib qb) = .pair ib qb := by
  rw [decodeCommand_of_pairMatch (pairWord_match ib qb), pairWord_I, pairWord_Q]

theorem decodeCommand_eq_pair_iff (w : Word) (ib qb : Byte) :
    decodeCommand w = .pair ib qb ↔
      w &&& 0xFFFF0000#32 = 0x11000000#32 ∧ ib = w.extractLsb' 0 8 ∧ qb = w.extractLsb' 8 8 := by
  constructor
  · intro h
    obtain rfl := (decodeCommand_injective.eq_iff' (decodeCommand_pairWord ib qb)).mp h
    exact ⟨pairWord_match .., (pairWord_I ..).symm, (pairWord_Q ..).symm⟩
  · rintro ⟨hmatch, rfl, rfl⟩
    exact decodeCommand_of_pairMatch hmatch

/-- A legal word is decoded to a command of its own. -/
theorem decodeCommand_ne_illegal {w : Word} (h : cmdLegal w = true) : decodeCommand w ≠ .illegal w := by
  intro hd
  have hwf := decodeCommand_instr_wf w
  simp [hd, Command.instr, Instr.wf, h] at hwf

/-- The illegal words are those that no row of the opcode map matches (30_encoding.md R91). -/
theorem decodeCommand_eq_illegal_iff (w : Word) : decodeCommand w = .illegal w ↔ cmdLegal w = false := by
  constructor
  · exact fun hd => Bool.eq_false_iff.mpr fun h => decodeCommand_ne_illegal h hd
  · intro hl
    have henc := encode_decodeCommand w
    cases hd : decodeCommand w with
    | nop | reset | construct | blockBegin | blockEnd =>
      rw [hd] at henc
      cases henc
      exact absurd hl (by decide)
    | pair ib qb =>
      obtain ⟨hmatch, -⟩ := (decodeCommand_eq_pair_iff w ib qb).mp hd
      simp [cmdLegal, hmatch] at hl
    | illegal v =>
      rw [hd] at henc
      cases henc
      rfl

/-- Settles O3: the decoder is injective, so a command without operands has the one word that decodes to it; PAIR and
the illegal words have their match and mask. -/
theorem commandWordsDecodeByMatchAndMask : Obligations.CommandWordsDecodeByMatchAndMask := by
  intro w
  refine ⟨decodeCommand_injective.eq_iff' (by decide), decodeCommand_injective.eq_iff' (by decide),
    decodeCommand_injective.eq_iff' (by decide), decodeCommand_injective.eq_iff' (by decide),
    decodeCommand_injective.eq_iff' (by decide), decodeCommand_eq_pair_iff w, ?_⟩
  rw [decodeCommand_eq_illegal_iff]
  simp only [cmdLegal, Bool.or_eq_false_iff, beq_eq_false_iff_ne]
  tauto

/-! ### Accesses -/

/-- A decoded access is well-formed: a bus error breaks R62 or R63, and every row of the access maps is an
instruction. -/
theorem wf_of_decode_busacc {a : Access} (h : decode (.busacc a) = .ok i) : i.wf = true := by
  by_cases hres : descReserved a.desc = 0#3
  · cases hb : isBusError (descOff a.desc) a.width a.lanes with
    | true =>
      cases (decode_busError hres hb).symm.trans h
      exact hb
    | false =>
      obtain ⟨j, hj, hrow⟩ := decode_row_of_not_busError hres hb
      cases hj.symm.trans h
      exact accessTable_wf _ _ _ hrow
  · simp [decode, decodeAccess, hres] at h

/-- Settles O2: by the two forms of a transaction. -/
theorem decodedInstructionsAreWellFormed : Obligations.DecodedInstructionsAreWellFormed := by
  intro q i h
  cases q with
  | busacc a => exact wf_of_decode_busacc h
  | cmd w =>
    cases h
    exact decodeCommand_instr_wf w

/-- Both access maps have one row for each register (30_encoding.md R90). -/
theorem accessTable_offsets (write : Bool) (v : Word) :
    (if write then writeTable v else readTable).map Prod.fst = readTable.map Prod.fst := by
  cases write with
  | false => rfl
  | true => exact writeTable_offsets v

/-- Every row of the access maps stands at a mapped offset. -/
theorem mapped_of_mem_offsets {off : Offset} (h : off ∈ readTable.map Prod.fst) : mapped off = true := by
  rw [readTable_offsets, List.mem_map] at h
  obtain ⟨k, hk, rfl⟩ := h
  have hlt := List.mem_range.mp hk
  rw [mapped_iff, BitVec.toNat_ofNat]
  omega

/-- A 32-bit, all-lanes access at the offset of a row of its access map decodes to that row, as no other row of the map
has that offset. -/
theorem decode_fullAccess {write : Bool} {v : Word} {off : Offset}
    (h : (off, i) ∈ if write then writeTable v else readTable) :
    decode (.busacc (fullAccess (mkDesc write off) v)) = .ok i := by
  have hoff : off ∈ readTable.map Prod.fst := accessTable_offsets write v ▸ List.mem_map_of_mem h
  have hb : isBusError off .w32 0xF#4 = false := by simp [isBusError, mapped_of_mem_offsets hoff]
  obtain ⟨j, hj, hrow⟩ :=
    decode_row_of_not_busError (a := fullAccess (mkDesc write off) v) (by simp) (by simpa using hb)
  rw [fullAccess_desc, fullAccess_data, descWrite_mkDesc, descOff_mkDesc] at hrow
  cases List.inj_on_of_nodup_map (accessTable_offsets write v ▸ readTable_nodup) h hrow rfl
  exact hj

theorem decode_readAt {off : Offset} (h : (off, i) ∈ readTable) : decode (readAt off) = .ok i :=
  decode_fullAccess (write := false) h

theorem decode_writeAt {off : Offset} {v : Word} (h : (off, i) ∈ writeTable v) : decode (writeAt off v) = .ok i :=
  decode_fullAccess (write := true) h

/-- Settles O1: a command word by its fields, a register access by its row in the access maps, and the two rows without
a fixed match by their well-formedness. -/
theorem decodeOfEncodeIsTheInstruction : Obligations.DecodeOfEncodeIsTheInstruction := by
  intro i hwf
  cases i with
  | nop | reset | construct | blockBegin | blockEnd => rfl
  | pair ib qb => exact congrArg (Except.ok ∘ Command.instr) (decodeCommand_pairWord ib qb)
  | illegalCmd w =>
    have hl : cmdLegal w = false := by simpa [Instr.wf] using hwf
    exact congrArg (Except.ok ∘ Command.instr) ((decodeCommand_eq_illegal_iff w).mpr hl)
  | busError write off width lanes =>
    have hb : isBusError off width lanes = true := hwf
    simpa [encode] using decode_busError (a := ⟨width, lanes, mkDesc write off, 0#32⟩) (by simp) (by simpa using hb)
  | wrCtrl | wrDecimN | wrBoxN | wrDeemphD | wrScale | wrCmd | wrId | wrStatus | wrErrCmd | wrOutCount | wrPairCount
  | wrPcmCount | wrBlockCount | wrDecimCnt | wrDbgSmoothI | wrDbgSmoothQ | wrDbgPhase | wrDbgDecimOut
  | wrDbgDeemphOut | wrCaps => exact decode_writeAt (by simp [writeTable])
  | rdId | rdCtrl | rdDecimN | rdBoxN | rdDeemphD | rdScale | rdCmd | rdStatus | rdErrCmd | rdOutCount | rdPairCount
  | rdPcmCount | rdBlockCount | rdDecimCnt | rdDbgSmoothI | rdDbgSmoothQ | rdDbgPhase | rdDbgDecimOut
  | rdDbgDeemphOut | rdCaps => exact decode_readAt (by simp [readTable])

/-- Settles O5: each word is evaluated. -/
theorem sampleWordsDecode : Obligations.SampleWordsDecode := ⟨rfl, rfl, rfl, rfl, rfl, rfl, rfl, rfl⟩

/-! ### The reserved bits of a configuration register -/

theorem Smooth.bit_ofBit (b : Bool) : (Smooth.ofBit b).bit = BitVec.ofBool b := by cases b <;> rfl

theorem ArgSel.bit_ofBit (b : Bool) : (ArgSel.ofBit b).bit = BitVec.ofBool b := by cases b <;> rfl

theorem extractLsb'_one (v : Word) (k : Nat) : v.extractLsb' k 1 = BitVec.ofBool (v.getLsbD k) := by
  ext j hj
  simp [Nat.lt_one_iff.mp hj]

/-- CTRL reads back the three fields it stores, which are the ones of the mask 0x3F03 (10_state.md R21;
30_encoding.md R92). -/
theorem ctrlWord_ctrlOfWord (v : Word) : ctrlWord (ctrlOfWord v) = v &&& 0x00003F03#32 := by
  have hfields : v.extractLsb' 14 18 ++ v.extractLsb' 8 6 ++ v.extractLsb' 2 6 ++ v.extractLsb' 1 1 ++
      v.extractLsb' 0 1 = v := by
    simp only [BitVec.extractLsb'_append_extractLsb'_eq_extractLsb']
    exact BitVec.extractLsb'_eq_self
  have hmask : 0x00003F03#32 = 0#18 ++ BitVec.allOnes 6 ++ 0#6 ++ BitVec.allOnes 1 ++ BitVec.allOnes 1 := rfl
  conv_rhs => rw [← hfields, hmask]
  rw [BitVec.and_append, BitVec.and_append, BitVec.and_append, BitVec.and_append, BitVec.and_zero, BitVec.and_zero,
    BitVec.and_allOnes, BitVec.and_allOnes, BitVec.and_allOnes, extractLsb'_one, extractLsb'_one,
    ← Smooth.bit_ofBit (v.getLsbD 0), ← ArgSel.bit_ofBit (v.getLsbD 1)]
  rfl

/-- DECIM_N and BOX_N read back bits 15..0 (10_state.md R23, R24; 30_encoding.md R92). -/
theorem setWidth_lowHalf (v : Word) : (lowHalf v).setWidth 32 = v &&& 0x0000FFFF#32 := by
  apply BitVec.eq_of_toNat_eq
  rw [lowHalf, BitVec.toNat_setWidth, BitVec.extractLsb'_toNat, Nat.shiftRight_zero, BitVec.toNat_and]
  exact (Nat.mod_eq_of_lt (by omega)).trans (Nat.and_two_pow_sub_one_eq_mod v.toNat 16).symm

/-- In UNCONF a configuration write stores, and a read that follows returns what the register then holds. -/
theorem exec_write_then_read {wr rd : Instr} {off : Offset} {store : State → State} {field : State → Word} {v : Word}
    (hwr : ∀ s, exec wr s = .next (issueWrite wr (configWrite off store) s))
    (hrd : ∀ t, exec rd t = .next (returnRead (field t) t)) (hm : s.mode = .unconf) (hv : field (store s) = v) :
    ∃ t, exec wr s = .next t ∧ exec rd t = .next { t with reads := t.reads ++ [v] } := by
  refine ⟨store s, ?_, ?_⟩
  · rw [hwr, issueWrite_run (by simp [hm])]
    simp [configWrite, hm]
  · rw [hrd, hv]
    rfl

/-- Settles O18: each register holds, after its write, the bits of its fields. -/
theorem writtenConfigurationReadsBackWithoutReservedBits :
    Obligations.WrittenConfigurationReadsBackWithoutReservedBits := fun v _ hm =>
  ⟨exec_write_then_read (fun _ => rfl) (fun _ => rfl) hm (ctrlWord_ctrlOfWord v),
    exec_write_then_read (fun _ => rfl) (fun _ => rfl) hm (setWidth_lowHalf v),
    exec_write_then_read (fun _ => rfl) (fun _ => rfl) hm (setWidth_lowHalf v),
    exec_write_then_read (fun _ => rfl) (fun _ => rfl) hm rfl,
    exec_write_then_read (fun _ => rfl) (fun _ => rfl) hm rfl⟩

end Sys2Proof.Machine
end

section
/-! The family 40_numerics.md: the order of the patterns, the rounding, the four operations case by case, and what
follows for NaNs, signs of zero, integers and comparisons. -/

namespace Sys2Proof.Machine

variable {a b : F32} {num den : Nat}

/-! ### The kinds of patterns -/

theorem isNaN_of_isFinite (h : isFinite a = true) : isNaN a = false := by
  simp_all [isFinite, isNaN]

theorem isInf_of_isFinite (h : isFinite a = true) : isInf a = false := by
  simp_all [isFinite, isInf]

theorem isNaN_of_isInf (h : isInf a = true) : isNaN a = false := by
  simp_all [isInf, isNaN]

theorem isZero_of_isInf (h : isInf a = true) : isZero a = false := by
  simp_all [isInf, isZero]

theorem isInf_or_isFinite (h : isNaN a = false) : isInf a = true ∨ isFinite a = true := by
  by_cases he : fexp a = 255
  · exact .inl (by simp_all [isNaN, isInf])
  · exact .inr (by simp [isFinite, he])

theorem nan_or_not_nan (a b : F32) :
    (isNaN a = true ∨ isNaN b = true) ∨ (isNaN a = false ∧ isNaN b = false) := by
  cases isNaN a <;> cases isNaN b <;> simp

theorem isFinite_of_isZero (h : isZero a = true) : isFinite a = true := by
  simp_all [isZero, isFinite]

/-! ### The order of the patterns -/

theorem ffrac_lt (a : F32) : ffrac a < 2 ^ 23 := BitVec.isLt _

/-- A pattern of positive sign is its exponent field above its fraction field (40_numerics.md R100). -/
theorem toNat_of_fsign_false (h : fsign a = false) : a.toNat = fexp a * 2 ^ 23 + ffrac a := by
  rw [fsign_eq, decide_eq_false_iff_not] at h
  rw [fexp_eq, ffrac_eq]
  omega

theorem fmag_of_fexp_eq_zero (h : fexp a = 0) : fmag a = ffrac a := if_pos h

theorem fmag_of_fexp_ne_zero (h : fexp a ≠ 0) : fmag a = (2 ^ 23 + ffrac a) * 2 ^ (fexp a - 1) := if_neg h

/-- A magnitude is below the least one of the next exponent. -/
theorem fmag_lt (a : F32) : fmag a < 2 ^ 23 * 2 ^ fexp a := by
  have hf := ffrac_lt a
  by_cases he : fexp a = 0
  · rw [fmag_of_fexp_eq_zero he, he]
    omega
  · calc fmag a = (2 ^ 23 + ffrac a) * 2 ^ (fexp a - 1) := fmag_of_fexp_ne_zero he
      _ < 2 ^ 24 * 2 ^ (fexp a - 1) := Nat.mul_lt_mul_of_pos_right (by omega) (by positivity)
      _ = 2 ^ 23 * 2 ^ (fexp a - 1 + 1) := by ring
      _ = 2 ^ 23 * 2 ^ fexp a := by rw [Nat.sub_add_cancel (Nat.pos_of_ne_zero he)]

theorem le_fmag (h : fexp a ≠ 0) : 2 ^ 23 * 2 ^ (fexp a - 1) ≤ fmag a := by
  rw [fmag_of_fexp_ne_zero h]
  exact Nat.mul_le_mul_right _ (Nat.le_add_right _ _)

/-- A larger exponent is a larger magnitude. -/
theorem fmag_lt_of_fexp_lt (h : fexp a < fexp b) : fmag a < fmag b :=
  calc fmag a < 2 ^ 23 * 2 ^ fexp a := fmag_lt a
    _ ≤ 2 ^ 23 * 2 ^ (fexp b - 1) := Nat.mul_le_mul_left _ (Nat.pow_le_pow_right (by decide) (by omega))
    _ ≤ fmag b := le_fmag (by omega)

/-- At one exponent, a larger fraction is a larger magnitude. -/
theorem fmag_lt_of_ffrac_lt (he : fexp a = fexp b) (h : ffrac a < ffrac b) : fmag a < fmag b := by
  by_cases h0 : fexp b = 0
  · rwa [fmag_of_fexp_eq_zero (he.trans h0), fmag_of_fexp_eq_zero h0]
  · rw [fmag_of_fexp_ne_zero (he ▸ h0), fmag_of_fexp_ne_zero h0, he]
    exact Nat.mul_lt_mul_of_pos_right (by omega) (by positivity)

/-- Among the patterns of positive sign a greater pattern is a greater magnitude. -/
theorem fmag_lt_of_toNat_lt (ha : fsign a = false) (hb : fsign b = false) (h : a.toNat < b.toNat) :
    fmag a < fmag b := by
  rw [toNat_of_fsign_false ha, toNat_of_fsign_false hb] at h
  have hfa := ffrac_lt a
  have hfb := ffrac_lt b
  obtain he | ⟨he, hf⟩ : fexp a < fexp b ∨ fexp a = fexp b ∧ ffrac a < ffrac b := by omega
  · exact fmag_lt_of_fexp_lt he
  · exact fmag_lt_of_ffrac_lt he hf

theorem fmag_lt_iff (ha : fsign a = false) (hb : fsign b = false) : fmag a < fmag b ↔ a.toNat < b.toNat := by
  refine ⟨fun h => ?_, fmag_lt_of_toNat_lt ha hb⟩
  by_contra hle
  obtain heq | hlt := Nat.eq_or_lt_of_not_lt hle
  · rw [BitVec.eq_of_toNat_eq heq] at h
    exact absurd h (Nat.lt_irrefl _)
  · exact absurd h (fmag_lt_of_toNat_lt hb ha hlt).asymm

/-- The patterns of positive sign have magnitudes of their own. -/
theorem eq_of_fmag_eq (ha : fsign a = false) (hb : fsign b = false) (h : fmag a = fmag b) : a = b := by
  have hab := (fmag_lt_iff ha hb).not.mp h.not_lt
  have hba := (fmag_lt_iff hb ha).not.mp h.not_gt
  exact BitVec.eq_of_toNat_eq (by omega)

theorem fmag_eq_zero_iff (a : F32) : fmag a = 0 ↔ isZero a = true := by
  constructor
  · intro h
    by_contra hz
    exact absurd h (fmag_pos (Bool.eq_false_iff.mpr hz)).ne'
  · intro h
    obtain ⟨he, hf⟩ : fexp a = 0 ∧ ffrac a = 0 := by simpa [isZero] using h
    rw [fmag_of_fexp_eq_zero he, hf]

/-- Below the binade of an exponent step `s`, or a whole number of its units. -/
theorem fmag_lt_or_dvd (a : F32) (s : Nat) : fmag a < 2 ^ 23 * 2 ^ s ∨ 2 ^ s ∣ fmag a := by
  obtain hs | hs : fexp a ≤ s ∨ s < fexp a := le_or_gt _ _
  · exact .inl ((fmag_lt a).trans_le (Nat.mul_le_mul_left _ (Nat.pow_le_pow_right (by decide) hs)))
  · rw [fmag_of_fexp_ne_zero (by omega)]
    exact .inr ((Nat.pow_dvd_pow 2 (by omega)).mul_left _)

/-! ### Rounding to a whole number -/

/-- The rounded number is below an even `m` exactly where the quotient is below the midpoint of `m - 1` and `m`. -/
theorem roundHalfEven_lt_iff (hd : 0 < den) {m : Nat} (hm : m % 2 = 0) :
    roundHalfEven num den < m ↔ 2 * num + den < 2 * (m * den) := by
  have hq := Nat.div_add_mod num den
  have hr := Nat.mod_lt num hd
  have hmem := roundHalfEven_mem num den
  rw [Nat.mul_comm] at hq
  obtain h | h | h : num / den + 2 ≤ m ∨ m = num / den + 1 ∨ m ≤ num / den := by omega
  · have := Nat.mul_le_mul_right den h
    rw [Nat.add_mul] at this
    omega
  · rw [h, Nat.add_mul]
    unfold roundHalfEven
    simp only
    split <;> omega
  · have := Nat.mul_le_mul_right den h
    omega

/-- A quotient half-way between two whole numbers is rounded to the even one (40_numerics.md R101). -/
theorem roundHalfEven_even_of_halfway (hd : 0 < den)
    (h : 2 * (roundHalfEven num den * den) = 2 * num + den ∨ 2 * num = 2 * (roundHalfEven num den * den) + den) :
    roundHalfEven num den % 2 = 0 := by
  have hq := Nat.div_add_mod num den
  have hr := Nat.mod_lt num hd
  rw [Nat.mul_comm] at hq
  unfold roundHalfEven at h ⊢
  simp only at h ⊢
  split at h
  · rw [Nat.add_mul] at h
    rw [if_pos ‹_›]
    omega
  · rw [if_neg ‹_›]
    omega

/-- Multiples of `den` by different numbers are at least `den` apart. -/
theorem multiples_apart {q t : Nat} (h : t ≠ q) (den : Nat) : t * den + den ≤ q * den ∨ q * den + den ≤ t * den := by
  rw [← Nat.succ_mul, ← Nat.succ_mul]
  exact h.lt_or_gt.imp (Nat.mul_le_mul_right den) (Nat.mul_le_mul_right den)

/-- No whole number is nearer to the quotient than the rounded one. -/
theorem roundHalfEven_nearest (hd : 0 < den) (t : Nat) :
    (((roundHalfEven num den * den : Nat) : Int) - num).natAbs ≤ (((t * den : Nat) : Int) - num).natAbs := by
  by_cases ht : t = roundHalfEven num den
  · rw [ht]
  · have hapart := multiples_apart ht den
    have hbounds := roundHalfEven_bounds num hd
    omega

/-- Where another whole number is as near, the rounded one is even. -/
theorem roundHalfEven_even_of_tie (hd : 0 < den) {t : Nat} (ht : t ≠ roundHalfEven num den)
    (h : (((roundHalfEven num den * den : Nat) : Int) - num).natAbs = (((t * den : Nat) : Int) - num).natAbs) :
    roundHalfEven num den % 2 = 0 := by
  have hapart := multiples_apart ht den
  have hbounds := roundHalfEven_bounds num hd
  exact roundHalfEven_even_of_halfway hd (by omega)

theorem roundHalfEven_mul_right (hd : 0 < den) (k : Nat) : roundHalfEven (k * den) den = k := by
  have hmod : k * den % den = 0 := Nat.mul_mod_left k den
  have hdiv : k * den / den = k := Nat.mul_div_cancel k hd
  unfold roundHalfEven
  simp only [hmod, hdiv]
  exact if_neg (by omega)

/-! ### Rounding to a pattern -/

/-- The significand that the quotient is rounded to, in units of the exponent step. -/
def significand (num den : Nat) : Nat := roundHalfEven num (den * 2 ^ stepOf num den)

theorem roundBits_eq (num den : Nat) :
    roundBits num den = min (stepOf num den * 2 ^ 23 + significand num den) infBits := rfl

theorem significand_le (num den : Nat) : significand num den ≤ 2 ^ 24 := by
  have hlt := (significand_bounds num den).1
  have hmem := roundHalfEven_mem num (den * 2 ^ stepOf num den)
  unfold significand
  omega

theorem le_significand (h : stepOf num den ≠ 0) : 2 ^ 23 ≤ significand num den :=
  ((significand_bounds num den).2 h).trans (roundHalfEven_mem _ _).1

/-- The quotient lies in the binade of its exponent step. -/
theorem stepOf_upper (hd : 0 < den) (num : Nat) : num < 2 ^ 24 * (den * 2 ^ stepOf num den) :=
  (Nat.div_lt_iff_lt_mul (by positivity)).mp (significand_bounds num den).1

theorem stepOf_lower (hd : 0 < den) (h : stepOf num den ≠ 0) : 2 ^ 23 * (den * 2 ^ stepOf num den) ≤ num :=
  (Nat.le_div_iff_mul_le (by positivity)).mp ((significand_bounds num den).2 h)

theorem significand_lt_of_isFinite (h : isFinite (withSign false (roundBits num den)) = true) :
    stepOf num den * 2 ^ 23 + significand num den < infBits := (isFinite_roundBits_iff num den).mp h

/-- A rounding is finite exactly below the midpoint of the largest finite binary32 and 2^128 (40_numerics.md R102):
the exponent step 253 decides it by the significand, every other step by itself. -/
theorem isFinite_roundBits_iff_lt (hd : 0 < den) :
    isFinite (withSign false (roundBits num den)) = true ↔ num < (2 ^ 25 - 1) * 2 ^ 252 * den := by
  have hle := significand_le num den
  have hup := stepOf_upper hd num
  rw [isFinite_roundBits_iff, infBits, ← significand]
  obtain hs | hs | hs : stepOf num den ≤ 252 ∨ stepOf num den = 253 ∨ 254 ≤ stepOf num den := by omega
  · have hpow : 2 ^ stepOf num den ≤ 2 ^ 252 := Nat.pow_le_pow_right (by decide) hs
    have := Nat.mul_le_mul_left den hpow
    exact iff_of_true (by omega) (by omega)
  · have hround := roundHalfEven_lt_iff (num := num) (den := den * 2 ^ 253) (by positivity) (m := 2 ^ 24) (by decide)
    rw [significand, hs]
    omega
  · have hpow : 2 ^ 254 ≤ 2 ^ stepOf num den := Nat.pow_le_pow_right (by decide) hs
    have := Nat.mul_le_mul_left den hpow
    have hlo := stepOf_lower hd (num := num) (by omega)
    have hsig := le_significand (num := num) (den := den) (by omega)
    exact iff_of_false (by omega) (by omega)

/-- A rounding that is not finite is the infinity. -/
theorem roundBits_eq_infBits (h : isFinite (withSign false (roundBits num den)) = false) :
    roundBits num den = infBits := by
  rw [Bool.eq_false_iff, ne_eq, isFinite_roundBits_iff, not_lt] at h
  exact (roundBits_eq num den).trans (Nat.min_eq_right h)

/-- A finite rounding is its significand, in units of the exponent step. -/
theorem fmag_roundBits_mul (h : isFinite (withSign false (roundBits num den)) = true) :
    fmag (withSign false (roundBits num den)) * den = significand num den * (den * 2 ^ stepOf num den) := by
  rw [fmag_roundBits (significand_lt_of_isFinite h), significand]
  ring

/-- The last bit of a finite rounding is that of its significand. -/
theorem getLsbD_zero_roundBits (h : isFinite (withSign false (roundBits num den)) = true)
    (heven : significand num den % 2 = 0) : (withSign false (roundBits num den)).getLsbD 0 = false := by
  have hval : roundBits num den = stepOf num den * 2 ^ 23 + significand num den :=
    (roundBits_eq num den).trans (Nat.min_eq_left (significand_lt_of_isFinite h).le)
  rw [BitVec.getLsbD, withSign_toNat (roundBits_lt num den), hval, Nat.testBit_zero, decide_eq_false_iff_not,
    if_neg Bool.false_ne_true]
  omega

/-- A pattern between the units of the exponent step lies below the quotient's binade, so that the first value of that
binade is nearer than it, and the significand at least as near as that. -/
theorem significand_nearer_of_not_dvd (hd : 0 < den) {f : F32} (hf : ¬ 2 ^ stepOf num den ∣ fmag f) :
    (((significand num den * (den * 2 ^ stepOf num den) : Nat) : Int) - num).natAbs <
      (((fmag f * den : Nat) : Int) - num).natAbs := by
  have hstep : stepOf num den ≠ 0 := fun h0 => hf (by simp [h0])
  have hlow := stepOf_lower hd hstep
  have hbelow : fmag f * den < 2 ^ 23 * (den * 2 ^ stepOf num den) := by
    rw [Nat.mul_comm den, ← Nat.mul_assoc]
    exact Nat.mul_lt_mul_of_pos_right ((fmag_lt_or_dvd f _).resolve_right hf) hd
  have hnear := roundHalfEven_nearest (num := num) (den := den * 2 ^ stepOf num den) (by positivity) (2 ^ 23)
  rw [← significand] at hnear
  omega

/-- Settles O34: against a pattern that is a whole number of the exponent step's units the significand is the nearest
whole number; any other pattern lies below the binade. -/
theorem roundingIsToNearestTiesToEven : Obligations.RoundingIsToNearestTiesToEven := by
  intro num den hd
  refine ⟨isFinite_roundBits_iff_lt hd, fun h => ?_, fun hfin f _ hf => ?_⟩
  · rw [roundBits_eq_infBits h]
    rfl
  · rw [← Nat.cast_mul, ← Nat.cast_mul, fmag_roundBits_mul hfin]
    by_cases hdvd : 2 ^ stepOf num den ∣ fmag f
    · obtain ⟨t, ht⟩ := hdvd
      have hpos : 0 < den * 2 ^ stepOf num den := by positivity
      rw [show fmag f * den = t * (den * 2 ^ stepOf num den) by rw [ht]; ring]
      refine ⟨roundHalfEven_nearest hpos t, fun htie hne => getLsbD_zero_roundBits hfin ?_⟩
      refine roundHalfEven_even_of_tie hpos (fun heq => hne ?_) htie
      refine eq_of_fmag_eq hf (fsign_withSign (roundBits_lt num den)) ?_
      rw [ht, heq, fmag_roundBits (significand_lt_of_isFinite hfin), Nat.mul_comm]
    · have hlt := significand_nearer_of_not_dvd hd hdvd
      exact ⟨hlt.le, fun htie _ => absurd htie hlt.ne⟩

/-! ### The four operations, case by case -/

theorem addCore_of_ne_zero (ha : isFinite a = true) (hb : isFinite b = true) (h : fval a + fval b ≠ 0) :
    addCore a b =
      some (withSign (decide (fval a + fval b < 0)) (roundBits (fval a + fval b).natAbs 1)) := by
  simp [addCore, isNaN_of_isFinite, isInf_of_isFinite, ha, hb, h]

theorem addCore_of_eq_zero (ha : isFinite a = true) (hb : isFinite b = true) (h : fval a + fval b = 0) :
    addCore a b = some (withSign (fsign a && fsign b) 0) := by
  simp [addCore, isNaN_of_isFinite, isInf_of_isFinite, ha, hb, h]

theorem addCore_inf_inf (ha : isInf a = true) (hb : isInf b = true) :
    addCore a b = if fsign a = fsign b then some a else none := by
  simp [addCore, isNaN_of_isInf, ha, hb]

theorem addCore_inf_finite (ha : isInf a = true) (hb : isFinite b = true) : addCore a b = some a := by
  simp [addCore, isNaN_of_isInf, isNaN_of_isFinite, isInf_of_isFinite, ha, hb]

theorem addCore_finite_inf (ha : isFinite a = true) (hb : isInf b = true) : addCore a b = some b := by
  simp [addCore, isNaN_of_isInf, isNaN_of_isFinite, isInf_of_isFinite, ha, hb]

theorem mulCore_finite (ha : isFinite a = true) (hb : isFinite b = true) :
    mulCore a b = some (withSign (fsign a != fsign b) (roundBits (fmag a * fmag b) (2 ^ 149))) := by
  simp [mulCore, isNaN_of_isFinite, isInf_of_isFinite, ha, hb]

theorem mulCore_inf_left (ha : isInf a = true) (hb : isNaN b = false) :
    mulCore a b = if isZero b then none else some (fInf (fsign a != fsign b)) := by
  simp [mulCore, isNaN_of_isInf, ha, hb]

theorem mulCore_finite_inf (ha : isFinite a = true) (hb : isInf b = true) :
    mulCore a b = if isZero a then none else some (fInf (fsign a != fsign b)) := by
  simp [mulCore, isNaN_of_isInf, isNaN_of_isFinite, isInf_of_isFinite, ha, hb]

theorem divCore_finite (ha : isFinite a = true) (hb : isFinite b = true) (h : isZero b = false) :
    divCore a b = some (withSign (fsign a != fsign b) (roundBits (fmag a * 2 ^ 149) (fmag b))) := by
  simp [divCore, isNaN_of_isFinite, isInf_of_isFinite, ha, hb, h]

theorem divCore_inf_inf (ha : isInf a = true) (hb : isInf b = true) : divCore a b = none := by
  simp [divCore, ha, hb]

theorem divCore_inf_finite (ha : isInf a = true) (hb : isFinite b = true) :
    divCore a b = some (fInf (fsign a != fsign b)) := by
  simp [divCore, isNaN_of_isInf, isNaN_of_isFinite, isInf_of_isFinite, ha, hb]

theorem divCore_finite_inf (ha : isFinite a = true) (hb : isInf b = true) :
    divCore a b = some (withSign (fsign a != fsign b) 0) := by
  simp [divCore, isNaN_of_isInf, isNaN_of_isFinite, isInf_of_isFinite, ha, hb]

theorem divCore_finite_zero (ha : isFinite a = true) (hb : isZero b = true) :
    divCore a b = if isZero a then none else some (fInf (fsign a != fsign b)) := by
  simp [divCore, isNaN_of_isFinite, isInf_of_isFinite, isFinite_of_isZero, ha, hb]

section
variable {c : F32}

theorem fadd_of_some (h : addCore a b = some c) : fadd a b = c := by rw [fadd, h, Option.getD_some]
theorem fsub_of_some (h : addCore a (fneg b) = some c) : fsub a b = c := by rw [fsub, h, Option.getD_some]
theorem fmul_of_some (h : mulCore a b = some c) : fmul a b = c := by rw [fmul, h, Option.getD_some]
theorem fdiv_of_some (h : divCore a b = some c) : fdiv a b = c := by rw [fdiv, h, Option.getD_some]

end

theorem isNaN_fadd_of_none (h : addCore a b = none) : isNaN (fadd a b) = true := by
  rw [fadd, h, Option.getD_none, isNaN_nanResult]

theorem isNaN_fsub_of_none (h : addCore a (fneg b) = none) : isNaN (fsub a b) = true := by
  rw [fsub, h, Option.getD_none, isNaN_nanResult]

theorem isNaN_fmul_of_none (h : mulCore a b = none) : isNaN (fmul a b) = true := by
  rw [fmul, h, Option.getD_none, isNaN_nanResult]

theorem isNaN_fdiv_of_none (h : divCore a b = none) : isNaN (fdiv a b) = true := by
  rw [fdiv, h, Option.getD_none, isNaN_nanResult]

/-- Settles O35: the cases of the sum, product and quotient; a difference is the sum with the negated operand. -/
theorem arithmeticIsExactThenRoundedOnce : Obligations.ArithmeticIsExactThenRoundedOnce := by
  intro a b
  refine ⟨fun ha hb h => ?sum, fun ha hb h => ?difference, fun ha hb => ?product, fun ha hb h => ?quotient,
    fun ha hb => ?infinities, fun ha hb => ?infinity, fun ha hb => ?zeros, fun ha h hb => ?zeroDivisor⟩
  case sum => exact fadd_of_some (addCore_of_ne_zero ha hb h)
  case difference =>
    rw [sub_eq_add_neg, ← fval_fneg] at h ⊢
    exact fsub_of_some (addCore_of_ne_zero ha ((isFinite_fneg b).trans hb) h)
  case product => exact fmul_of_some (mulCore_finite ha hb)
  case quotient => exact fdiv_of_some (divCore_finite ha hb h)
  case infinities =>
    have hadd := addCore_inf_inf ha hb
    have hsub := addCore_inf_inf ha ((isInf_fneg b).trans hb)
    rw [fsign_fneg] at hsub
    exact ⟨fun hs => isNaN_fadd_of_none (hadd.trans (if_neg hs)),
      fun hs => isNaN_fsub_of_none (hsub.trans (if_neg (by simp [hs]))),
      fun hs => fadd_of_some (hadd.trans (if_pos hs)),
      fun hs => fsub_of_some (hsub.trans (if_pos (Bool.eq_not.mpr hs))),
      isNaN_fdiv_of_none (divCore_inf_inf ha hb),
      fmul_of_some ((mulCore_inf_left ha (isNaN_of_isInf hb)).trans (if_neg (by simp [isZero_of_isInf hb])))⟩
  case infinity =>
    have hmul := mulCore_inf_left ha (isNaN_of_isFinite hb)
    have hmul' := mulCore_finite_inf hb ha
    rw [bne_comm] at hmul'
    exact ⟨fadd_of_some (addCore_inf_finite ha hb), fadd_of_some (addCore_finite_inf hb ha),
      fsub_of_some (addCore_inf_finite ha ((isFinite_fneg b).trans hb)),
      fsub_of_some (addCore_finite_inf hb ((isInf_fneg a).trans ha)),
      fun hz => ⟨isNaN_fmul_of_none (hmul.trans (if_pos hz)), isNaN_fmul_of_none (hmul'.trans (if_pos hz))⟩,
      fun hz => ⟨fmul_of_some (hmul.trans (if_neg (by simp [hz]))),
        fmul_of_some (hmul'.trans (if_neg (by simp [hz])))⟩,
      fdiv_of_some (divCore_inf_finite ha hb),
      fdiv_of_some ((divCore_finite_inf hb ha).trans (by rw [bne_comm]))⟩
  case zeros =>
    exact isNaN_fdiv_of_none ((divCore_finite_zero (isFinite_of_isZero ha) hb).trans (if_pos ha))
  case zeroDivisor =>
    exact fdiv_of_some ((divCore_finite_zero ha hb).trans (if_neg (by simp [h])))

/-! ### NaN results and signs -/

/-- A sum that is no NaN result is an operand that is no NaN, or a rounding. -/
theorem isNaN_of_addCore {c : F32} (h : addCore a b = some c) : isNaN c = false := by
  obtain hnan | ⟨hna, hnb⟩ := nan_or_not_nan a b
  · cases (addCore_nan hnan).symm.trans h
  obtain ha | ha := isInf_or_isFinite hna <;> obtain hb | hb := isInf_or_isFinite hnb
  · rw [addCore_inf_inf ha hb, Option.ite_none_right_eq_some] at h
    exact Option.some.inj h.2 ▸ hna
  · exact Option.some.inj ((addCore_inf_finite ha hb).symm.trans h) ▸ hna
  · exact Option.some.inj ((addCore_finite_inf ha hb).symm.trans h) ▸ hnb
  · by_cases hz : fval a + fval b = 0
    · exact Option.some.inj ((addCore_of_eq_zero ha hb hz).symm.trans h) ▸ isNaN_withSign (Nat.zero_le _)
    · exact Option.some.inj ((addCore_of_ne_zero ha hb hz).symm.trans h) ▸ isNaN_withSign (roundBits_le _ _)

/-- A product that is no NaN result has the sign of its operands (40_numerics.md R103), and magnitude bits up to
those of an infinity. -/
theorem exists_withSign_of_mulCore {c : F32} (h : mulCore a b = some c) :
    ∃ m ≤ infBits, withSign (fsign a != fsign b) m = c := by
  obtain hnan | ⟨hna, hnb⟩ := nan_or_not_nan a b
  · cases (mulCore_nan hnan).symm.trans h
  obtain ha | ha := isInf_or_isFinite hna
  · rw [mulCore_inf_left ha hnb, Option.ite_none_left_eq_some] at h
    exact ⟨infBits, le_rfl, Option.some.inj h.2⟩
  obtain hb | hb := isInf_or_isFinite hnb
  · rw [mulCore_finite_inf ha hb, Option.ite_none_left_eq_some] at h
    exact ⟨infBits, le_rfl, Option.some.inj h.2⟩
  · exact ⟨_, roundBits_le _ _, Option.some.inj ((mulCore_finite ha hb).symm.trans h)⟩

/-- A quotient that is no NaN result likewise. -/
theorem exists_withSign_of_divCore {c : F32} (h : divCore a b = some c) :
    ∃ m ≤ infBits, withSign (fsign a != fsign b) m = c := by
  obtain hnan | ⟨hna, hnb⟩ := nan_or_not_nan a b
  · cases (divCore_nan hnan).symm.trans h
  obtain ha | ha := isInf_or_isFinite hna <;> obtain hb | hb := isInf_or_isFinite hnb
  · cases (divCore_inf_inf ha hb).symm.trans h
  · exact ⟨infBits, le_rfl, Option.some.inj ((divCore_inf_finite ha hb).symm.trans h)⟩
  · exact ⟨0, Nat.zero_le _, Option.some.inj ((divCore_finite_inf ha hb).symm.trans h)⟩
  · by_cases hz : isZero b = true
    · rw [divCore_finite_zero ha hz, Option.ite_none_left_eq_some] at h
      exact ⟨infBits, le_rfl, Option.some.inj h.2⟩
    · exact ⟨_, roundBits_le _ _,
        Option.some.inj ((divCore_finite ha hb (Bool.eq_false_iff.mpr hz)).symm.trans h)⟩

theorem isNaN_of_mulCore {c : F32} (h : mulCore a b = some c) : isNaN c = false := by
  obtain ⟨m, hm, rfl⟩ := exists_withSign_of_mulCore h
  exact isNaN_withSign hm

theorem isNaN_of_divCore {c : F32} (h : divCore a b = some c) : isNaN c = false := by
  obtain ⟨m, hm, rfl⟩ := exists_withSign_of_divCore h
  exact isNaN_withSign hm

theorem fsign_fmul (h : isNaN (fmul a b) = false) : fsign (fmul a b) = (fsign a != fsign b) := by
  cases hc : mulCore a b with
  | none => cases (isNaN_fmul_of_none hc).symm.trans h
  | some c =>
    obtain ⟨m, hm, rfl⟩ := exists_withSign_of_mulCore hc
    rw [fmul_of_some hc, fsign_withSign (hm.trans_lt (by decide))]

theorem fsign_fdiv (h : isNaN (fdiv a b) = false) : fsign (fdiv a b) = (fsign a != fsign b) := by
  cases hc : divCore a b with
  | none => cases (isNaN_fdiv_of_none hc).symm.trans h
  | some c =>
    obtain ⟨m, hm, rfl⟩ := exists_withSign_of_divCore hc
    rw [fdiv_of_some hc, fsign_withSign (hm.trans_lt (by decide))]

/-- Settles O36: a product or quotient has its sign by its case, and an exact zero sum is negative only where both
operands are. -/
theorem signedZeroRules : Obligations.SignedZeroRules := by
  refine ⟨fun a b => fsign_fmul, fun a b => fsign_fdiv, fun a b ha hb hs hz => ?_, fun a ha => ?_, ?_, ?_⟩
  · have hneg : (fsign a && fsign b) = false := by
      rw [Bool.eq_not.mpr hs, Bool.not_and_self]
    rw [fadd_of_some (addCore_of_eq_zero ha hb hz), hneg]
    rfl
  · rw [fsub_of_some (addCore_of_eq_zero ha ((isFinite_fneg a).trans ha) (by rw [fval_fneg, add_neg_cancel])),
      fsign_fneg, Bool.and_not_self]
    rfl
  · exact fadd_of_some (addCore_of_eq_zero rfl rfl rfl)
  · exact fsub_of_some (addCore_of_eq_zero rfl rfl rfl)

/-- Where no result of the operation's own is a NaN, a NaN is the quiet one of the draw (40_numerics.md R105). -/
theorem isQuietNaN_getD {o : Option F32} {op : NanOp} (ho : ∀ c, o = some c → isNaN c = false)
    (h : isNaN (o.getD (nanResult op a b)) = true) : isQuietNaN (o.getD (nanResult op a b)) = true := by
  cases o with
  | none => exact isQuietNaN_nanResult op a b
  | some c => cases (ho c rfl).symm.trans h

/-- Settles O37: no operation has a result of its own on a NaN operand, and no result of its own is a NaN. -/
theorem nanResultsAreQuiet : Obligations.NanResultsAreQuiet := fun a b =>
  ⟨fun h => ⟨isNaN_fadd_of_none (addCore_nan h), isNaN_fsub_of_none (addCore_nan (by rwa [isNaN_fneg])),
      isNaN_fmul_of_none (mulCore_nan h), isNaN_fdiv_of_none (divCore_nan h)⟩,
    isQuietNaN_getD fun _ => isNaN_of_addCore, isQuietNaN_getD fun _ => isNaN_of_addCore,
    isQuietNaN_getD fun _ => isNaN_of_mulCore, isQuietNaN_getD fun _ => isNaN_of_divCore⟩

/-! ### Integers -/

theorem isFinite_withSign {neg : Bool} {m : Nat} (h : m < 2 ^ 31) :
    isFinite (withSign neg m) = isFinite (withSign false m) := by
  rw [isFinite, isFinite, fexp_withSign h, fexp_withSign h]

theorem fval_withSign {neg : Bool} {m : Nat} (h : m < 2 ^ 31) :
    fval (withSign neg m) = if neg then -(fmag (withSign neg m) : Int) else fmag (withSign neg m) := by
  rw [fval, fsign_withSign h]

/-- A whole number of the exponent step's units below the overflow threshold is rounded to itself. -/
theorem fmag_roundBits_of_dvd {neg : Bool} {n : Nat} (hdvd : 2 ^ stepOf n 1 ∣ n) (hlt : n < (2 ^ 25 - 1) * 2 ^ 252) :
    fmag (withSign neg (roundBits n 1)) = n := by
  have hfin := (isFinite_roundBits_iff_lt (num := n) Nat.one_pos).mpr (by rwa [Nat.mul_one])
  obtain ⟨k, hk⟩ := hdvd
  rw [Nat.mul_comm] at hk
  have hround : roundHalfEven n (1 * 2 ^ stepOf n 1) = k := by
    conv_lhs => arg 1; rw [hk]
    rw [Nat.one_mul]
    exact roundHalfEven_mul_right (by positivity) k
  rw [fmag_roundBits (significand_lt_of_isFinite hfin), hround, ← hk]

/-- The last place of a whole number up to 2^24 is at most 1, and that of 2^24 itself is 2. -/
theorem two_pow_stepOf_dvd {k : Nat} (hk : k ≤ 2 ^ 24) : 2 ^ stepOf (k * 2 ^ 149) 1 ∣ k * 2 ^ 149 := by
  by_cases hs : stepOf (k * 2 ^ 149) 1 ≤ 149
  · exact (Nat.pow_dvd_pow 2 hs).mul_left k
  · have hlow := stepOf_lower Nat.one_pos (num := k * 2 ^ 149) (by omega)
    rw [Nat.one_mul, ← Nat.pow_add] at hlow
    have hpow : 2 ^ (23 + stepOf (k * 2 ^ 149) 1) ≤ 2 ^ 173 := hlow.trans (by omega)
    have hstep : stepOf (k * 2 ^ 149) 1 = 150 := by
      have := (Nat.pow_le_pow_iff_right (by decide)).mp hpow
      omega
    rw [hstep] at hlow ⊢
    rw [show k = 2 ^ 24 by omega]
    decide

/-- Settles O38: the value is a whole number of the units of its last place, and so is not rounded. -/
theorem integerConversionIsExact : Obligations.IntegerConversionIsExact := by
  refine ⟨fun k hlo hhi => ?_, rfl⟩
  have hk : k.natAbs ≤ 2 ^ 24 := by omega
  have hlt : k.natAbs * 2 ^ 149 < (2 ^ 25 - 1) * 2 ^ 252 := by omega
  have hbits := roundBits_lt (k.natAbs * 2 ^ 149) 1
  unfold f32 f32OfRat
  constructor
  · rw [isFinite_withSign hbits]
    exact (isFinite_roundBits_iff_lt Nat.one_pos).mpr (by rwa [Nat.mul_one])
  · rw [fval_withSign hbits, fmag_roundBits_of_dvd (two_pow_stepOf_dvd hk) hlt]
    by_cases hneg : k < 0
    · rw [if_pos (decide_eq_true hneg)]
      omega
    · rw [if_neg (by simpa using hneg)]
      omega

/-! ### Bit operations and comparisons -/

/-- Settles O39: the bits of `fneg` and `fabs`. -/
theorem negationAndMagnitudeAreBitOperations : Obligations.NegationAndMagnitudeAreBitOperations :=
  fun a i _ => ⟨fneg_getLsbD a i, fabs_getLsbD a i⟩

theorem flt_eq (ha : isNaN a = false) (hb : isNaN b = false) : flt a b = decide (fval a < fval b) := by
  simp [flt, ha, hb]

theorem fge_eq (ha : isNaN a = false) (hb : isNaN b = false) : fge a b = decide (fval b ≤ fval a) := by
  simp [fge, ha, hb]

theorem fval_of_pos (h : fsign a = false) : fval a = fmag a := by simp [fval, h]

theorem fval_of_neg (h : fsign a = true) : fval a = -(fmag a : Int) := by simp [fval, h]

theorem flt_nan (h : isNaN a = true ∨ isNaN b = true) : flt a b = false := by
  rcases h with h | h <;> simp [flt, h]

theorem fge_nan (h : isNaN a = true ∨ isNaN b = true) : fge a b = false := by
  rcases h with h | h <;> simp [fge, h]

/-- Settles O40: the comparisons are those of the values, and the values of the patterns of positive sign are ordered
as the patterns are. -/
theorem comparisonsAreTheIeeeOrder : Obligations.ComparisonsAreTheIeeeOrder := by
  refine ⟨fun a b h => ⟨flt_nan h, fge_nan h⟩, fun a b ha hb => ?negation, fun a b ha hb hsa hsb => ?patterns,
    fun a b ha hb => ?reversed, fun a b ha hb hsa hsb => ?negPos, fun a b ha hb hsa hsb => ?posNeg, ?zeros⟩
  case negation =>
    rw [flt_eq ha hb, fge_eq ha hb, ← decide_not, decide_eq_decide, not_le]
  case patterns =>
    rw [flt_eq ha hb, fval_of_pos hsa, fval_of_pos hsb, decide_eq_decide, Nat.cast_lt, fmag_lt_iff hsa hsb]
  case reversed =>
    rw [flt_eq ((isNaN_fneg a).trans ha) ((isNaN_fneg b).trans hb), flt_eq hb ha, fval_fneg, fval_fneg,
      decide_eq_decide, neg_lt_neg_iff]
  case negPos =>
    rw [flt_eq ha hb, fval_of_neg hsa, fval_of_pos hsb, Bool.eq_iff_iff, decide_eq_true_iff, Bool.not_eq_true',
      ← Bool.not_eq_true, Bool.and_eq_true, ← fmag_eq_zero_iff, ← fmag_eq_zero_iff]
    omega
  case posNeg =>
    rw [flt_eq ha hb, fval_of_pos hsa, fval_of_neg hsb, decide_eq_false_iff_not]
    omega
  case zeros => decide

end Sys2Proof.Machine
end

section
/-! The family 41_recursive_filter.md: IIR_IN against the spec's indexed sums, and the separation of the two channels'
smoothers. -/

namespace Sys2Proof.Machine

/-! ### IIR_IN -/

section
variable {n : Nat}

/-- Two vectors, element by element, in ascending index order. -/
theorem zip_toList_eq_map_finRange (a h : Vector F32 n) :
    a.toList.zip h.toList = (List.finRange n).map fun i => (a[i], h[i]) := by
  apply List.ext_getElem <;> simp

/-- `dot` over two vectors is the sum over their indices (41_recursive_filter.md R120). -/
theorem dot_toList (a h : Vector F32 n) :
    dot a.toList h.toList = (List.finRange n).foldl (fun acc i => fadd acc (fmul a[i] h[i])) posZero := by
  rw [dot, zip_toList_eq_map_finRange, List.foldl_map]

/-- The coefficients from index 1 meet the elements that the shift moves to index 1 and beyond. -/
theorem zip_tail_eq_tail_zip_shiftIn (a h : Vector F32 n) (v : F32) :
    a.toList.tail.zip h.toList = (a.toList.zip (shiftIn v h).toList).tail := by
  apply List.ext_getElem
  · simp
  · intro i hleft hright
    simp [shiftIn_getElem]

/-- The denominator's sum, over the history before the shift, is the sum from index 1 over the history after it
(41_recursive_filter.md R120). -/
theorem dot_tail_toList (a h : Vector F32 n) (v : F32) :
    dot a.toList.tail h.toList =
      (List.finRange n).tail.foldl (fun acc i => fadd acc (fmul a[i] (shiftIn v h)[i])) posZero := by
  rw [dot, zip_tail_eq_tail_zip_shiftIn a h v, zip_toList_eq_map_finRange, ← List.map_tail, List.foldl_map]

end

/-- Settles O42: both histories are shifted by `shiftIn`, and the two `dot`s of the output are the sums over their
indices. -/
theorem iirInFollowsTheRecursion : Obligations.IirInFollowsTheRecursion := by
  intro n hn b a f v
  refine ⟨fun i hi => shiftIn_getElem v f.x i hi, fun i hi => shiftIn_getElem _ f.y i hi, ?_⟩
  have hout : (iirIn hn b a f v).out =
      fdiv (fsub (dot b.toList (shiftIn v f.x).toList) (dot a.toList.tail f.y.toList)) a[0] := rfl
  rw [hout, dot_toList, dot_tail_toList a f.y (iirOut hn b a f v)]
  rfl

/-! ### The two channels -/

/-- The two smoothers of one channel, of which CTRL.SMOOTH selects one. -/
abbrev Smoothers := Iir Config.ntaps × Box

/-- The I channel's smoothers (41_recursive_filter.md R121; 42_box_filter.md R137). -/
def iSmoothers (s : State) : Smoothers := (s.si, s.bi)

/-- The Q channel's smoothers (41_recursive_filter.md R121; 42_box_filter.md R137). -/
def qSmoothers (s : State) : Smoothers := (s.sq, s.bq)

/-- What an input does to one channel's smoothers: the selected one takes it, the other stays (46_pipeline.md R191). It
is given one channel alone. -/
def smoothersIn (c : Ctrl) (boxN : BitVec 16) (p : Smoothers) (u : F32) : Smoothers :=
  match c.smooth with
  | .recursive => (smootherIn (Config.coef c.orderSel) p.1 u, p.2)
  | .box => (p.1, boxIn boxN.toNat p.2 u)

theorem smooth_channels (u v : F32) (s : State) :
    iSmoothers (smooth u v s) = smoothersIn s.ctrl s.boxN (iSmoothers s) u ∧
      qSmoothers (smooth u v s) = smoothersIn s.ctrl s.boxN (qSmoothers s) v := by
  unfold smooth smoothersIn
  cases s.ctrl.smooth with
  | recursive => exact ⟨rfl, rfl⟩
  | box => exact ⟨rfl, rfl⟩

/-- EMIT leaves the smoothers as they are. -/
theorem emit_channels (w : Word) (s : State) :
    iSmoothers (emit w s) = iSmoothers s ∧ qSmoothers (emit w s) = qSmoothers s := by
  rcases emit_cases w s with ⟨-, he⟩ | ⟨-, he⟩ <;> rw [he] <;> exact ⟨rfl, rfl⟩

/-- A PAIR's bytes go each to its own channel (46_pipeline.md R190 step 1), whatever follows in the pair step. -/
theorem pairStep_channels (np : NormPoint) (ib qb : Byte) (w : Word) (s : State) :
    iSmoothers (pairStep np ib qb w s) = smoothersIn s.ctrl s.boxN (iSmoothers s) (pairMap np (byteValue ib)) ∧
      qSmoothers (pairStep np ib qb w s) = smoothersIn s.ctrl s.boxN (qSmoothers s) (pairMap np (byteValue qb)) := by
  have hfront := smooth_channels (pairMap np (byteValue ib)) (pairMap np (byteValue qb)) s
  rcases pairStep_cases np ib qb w s with ⟨-, he⟩ | ⟨-, he⟩ <;> rw [he]
  · exact hfront
  · obtain ⟨hi, hq⟩ := emit_channels w (pairFront np ib qb s)
    exact ⟨hi.trans hfront.1, hq.trans hfront.2⟩

/-- Settles O60: what a PAIR leaves in a channel's smoothers is a function of the configuration, that channel's byte and
its smoothers before. -/
theorem channelsDoNotInteract : Obligations.ChannelsDoNotInteract := by
  intro ib qb ib' qb' s s' t t' hm hm' hctrl hbox ht ht'
  cases (exec_pair_inblock hm ib qb).symm.trans ht
  cases (exec_pair_inblock hm' ib' qb').symm.trans ht'
  obtain ⟨hi, hq⟩ := pairStep_channels Config.normPoint ib qb (pairWord ib qb) s
  obtain ⟨hi', hq'⟩ := pairStep_channels Config.normPoint ib' qb' (pairWord ib' qb') s'
  constructor
  · rintro rfl hsi hbi
    have hin : iSmoothers s = iSmoothers s' := Prod.ext hsi hbi
    rw [hctrl, hbox, hin, ← hi'] at hi
    exact Prod.ext_iff.mp hi
  · rintro rfl hsq hbq
    have hin : qSmoothers s = qSmoothers s' := Prod.ext hsq hbq
    rw [hctrl, hbox, hin, ← hq'] at hq
    exact Prod.ext_iff.mp hq

end Sys2Proof.Machine
end

section
/-! The family 42_box_filter.md: the delay-line invariant of BOX_IN, by induction on the inputs. -/

namespace Sys2Proof.Machine

/-! ### The running sums -/

/-- One input more leaves the earlier running sums as they are. -/
theorem runSum_append_of_le {vs : List F32} {k : Nat} (hk : k ≤ vs.length) (v : F32) :
    runSum (vs ++ [v]) k = runSum vs k := by
  rw [runSum, List.take_append_of_le_length hk, runSum]

/-- The running sum after all the inputs and one more (42_box_filter.md R135). -/
theorem runSum_append_last (vs : List F32) (v : F32) :
    runSum (vs ++ [v]) (vs.length + 1) = fadd (runSum vs vs.length) v := by
  simp [runSum, List.take_of_length_le]

theorem boxRun_append (n : Nat) (vs : List F32) (v : F32) : boxRun n (vs ++ [v]) = boxIn n (boxRun n vs) v := by
  simp [boxRun]

/-! ### The delay-line invariant -/

/-- The filter `b` with window `n` holds the running sums of the t inputs `vs`: its index is t mod n, and cell
(t + j) mod n has the running sum after input t + 1 + j - n (42_box_filter.md R136). -/
structure Box.Holds (n : Nat) (vs : List F32) (b : Box) : Prop where
  sum : b.sum = runSum vs vs.length
  idx : b.idx.val = vs.length % n
  cell : ∀ j, j < n → b.delay[(vs.length + j) % n]? = some (runSum vs (vs.length + 1 + j - n))

section
variable {n : Nat} {vs : List F32} {b : Box}

/-- CONSTRUCT's cells are all +0.0, the running sum before the first input. -/
theorem Box.Holds.zero (hn : n ≤ 256) : Box.zero.Holds n [] where
  sum := rfl
  idx := (Nat.zero_mod n).symm
  cell j hj := by
    have hin : (0 + j) % n < Config.boxMax := (Nat.mod_lt _ (by omega)).trans_le hn
    rw [List.length_nil, Vector.getElem?_eq_getElem hin]
    simp [Box.zero, runSum]

/-- For a window that CONSTRUCT admits, the index advances modulo the window (40_numerics.md; 42_box_filter.md R135). -/
theorem nextIdx_val (hpos : 0 < n) (hn : n ≤ 256) (idx : Fin Config.boxMax) :
    (nextIdx n idx).val = (idx.val + 1) % n :=
  Nat.mod_eq_of_lt ((Nat.mod_lt _ hpos).trans_le hn)

/-- `old` is the running sum n inputs before the one that comes (42_box_filter.md R135). -/
theorem Box.Holds.old (h : b.Holds n vs) (hpos : 0 < n) : b.delay[b.idx] = runSum vs (vs.length + 1 - n) := by
  have hcell := h.cell 0 hpos
  rw [Nat.add_zero, ← h.idx] at hcell
  simpa using hcell

/-- Among the cells (t + j) mod n with j from 1 to n, only the last is the cell at the index, t mod n. -/
theorem add_mod_ne_mod {t j : Nat} (hj : 0 < j) (hlt : j < n) : (t + j) % n ≠ t % n := by
  intro heq
  have hdvd : n ∣ j := Nat.add_modEq_left_iff.mp heq
  exact Nat.not_dvd_of_pos_of_lt hj hlt hdvd

/-- BOX_IN keeps the invariant: it writes the new running sum into the cell of the oldest, and every other cell is one
input older. -/
theorem Box.Holds.input (h : b.Holds n vs) (hpos : 0 < n) (hn : n ≤ 256) (v : F32) :
    (boxIn n b v).Holds n (vs ++ [v]) where
  sum := by
    rw [List.length_append, List.length_singleton, runSum_append_last, ← h.sum]
    rfl
  idx := by
    have hidx : (boxIn n b v).idx.val = (b.idx.val + 1) % n := nextIdx_val hpos hn b.idx
    rw [hidx, h.idx, Nat.mod_add_mod, List.length_append, List.length_singleton]
  cell j hj := by
    have hdelay : (boxIn n b v).delay = b.delay.set b.idx (fadd b.sum v) := rfl
    rw [hdelay, Vector.getElem?_set, List.length_append, List.length_singleton]
    by_cases hlast : j + 1 = n
    case pos =>
      have hcell : (vs.length + 1 + j) % n = b.idx := by
        rw [h.idx, show vs.length + 1 + j = vs.length + n by omega, Nat.add_mod_right]
      have hinput : vs.length + 1 + 1 + j - n = vs.length + 1 := by omega
      rw [if_pos hcell.symm, hinput, runSum_append_last, h.sum]
    case neg =>
      have hcell : (vs.length + (j + 1)) % n ≠ b.idx := h.idx ▸ add_mod_ne_mod (Nat.succ_pos j) (by omega)
      have hinput : vs.length + 1 + (j + 1) - n ≤ vs.length := by omega
      rw [show vs.length + 1 + j = vs.length + (j + 1) by omega, if_neg hcell.symm, h.cell (j + 1) (by omega),
        ← runSum_append_of_le hinput v]
      congr 2
      omega

end

/-- The invariant after any inputs, from the CONSTRUCT state (42_box_filter.md R136). -/
theorem boxRun_holds {n : Nat} (hpos : 0 < n) (hn : n ≤ 256) (vs : List F32) : (boxRun n vs).Holds n vs := by
  induction vs using List.reverseRecOn with
  | nil => exact .zero hn
  | append_singleton vs v ih =>
    rw [boxRun_append]
    exact ih.input hpos hn v

/-- Settles O43: the invariant holds after the inputs `vs`; the output is that of the last BOX_IN, whose `old` the
invariant before it gives. -/
theorem boxDelayLineHoldsTheRunningSums : Obligations.BoxDelayLineHoldsTheRunningSums := by
  intro n vs hpos hn
  have h := boxRun_holds hpos hn vs
  refine ⟨h.sum, h.idx, fun j hj => ?_, fun hne => ?_⟩
  · rw [h.idx, Nat.mod_add_mod]
    exact h.cell j hj
  · obtain ⟨us, v, rfl⟩ := (List.eq_nil_or_concat' vs).resolve_left hne
    have hprev := boxRun_holds hpos hn us
    have hout : (boxRun n (us ++ [v])).out =
        fdiv (fsub (boxRun n (us ++ [v])).sum (boxRun n us).delay[(boxRun n us).idx]) (f32 n) := by
      rw [boxRun_append]
      rfl
    have hold : us.length + 1 - n ≤ us.length := by omega
    rw [hout, h.sum, hprev.old hpos, List.length_append, List.length_singleton, runSum_append_of_le hold]

end Sys2Proof.Machine
end

section
/-! The family 43_discriminator.md: the rounding of an exact value, products with 1.0 and zeros, operands that are not
finite, and what follows for CPROD, ARG_FAST and ARG_EXACT, case by case. -/

namespace Sys2Proof.Machine

variable {a b : F32} {den : Nat}

/-! ### Patterns of one sign and magnitude -/

/-- A pattern is its sign and its magnitude. -/
theorem eq_of_fsign_eq_of_fmag_eq (hs : fsign a = fsign b) (hm : fmag a = fmag b) : a = b := by
  cases hb : fsign b with
  | false => exact eq_of_fmag_eq (hs.trans hb) hb hm
  | true =>
    have hneg : fneg a = fneg b := eq_of_fmag_eq (by simp [hs, hb]) (by simp [hb]) (by simpa using hm)
    rw [← fneg_fneg a, hneg, fneg_fneg]

theorem eq_withSign_zero (h : isZero a = true) : a = withSign (fsign a) 0 :=
  eq_of_fsign_eq_of_fmag_eq (fsign_withSign (by decide)).symm
    (((fmag_eq_zero_iff a).mpr h).trans (by cases fsign a <;> rfl))

@[simp] theorem isFinite_fabs (a : F32) : isFinite (fabs a) = isFinite a := by simp [isFinite]

theorem fabs_eq_fabs (h : fmag a = fmag b) : fabs a = fabs b :=
  eq_of_fmag_eq (fsign_fabs a) (fsign_fabs b) (by simpa using h)

/-- A finite magnitude is at most the largest one, so that its rounding does not overflow. -/
theorem fmag_lt_of_isFinite (h : isFinite a = true) : fmag a < (2 ^ 25 - 1) * 2 ^ 252 := by
  have hexp : fexp a < 2 ^ 8 := BitVec.isLt _
  have hne : fexp a ≠ 255 := by simpa [isFinite] using h
  have hfrac := ffrac_lt a
  by_cases h0 : fexp a = 0
  · rw [fmag_of_fexp_eq_zero h0]
    omega
  · have hpow : 2 ^ (fexp a - 1) ≤ 2 ^ 253 := Nat.pow_le_pow_right (by decide) (by omega)
    calc fmag a = (2 ^ 23 + ffrac a) * 2 ^ (fexp a - 1) := fmag_of_fexp_ne_zero h0
      _ ≤ (2 ^ 24 - 1) * 2 ^ 253 := Nat.mul_le_mul (by omega) hpow
      _ < (2 ^ 25 - 1) * 2 ^ 252 := by norm_num

theorem fmag_withSign {neg : Bool} {m : Nat} (h : m < 2 ^ 31) : fmag (withSign neg m) = fmag (withSign false m) := by
  simp only [fmag, fexp_withSign h, ffrac_withSign h]

/-- The magnitude of a finite pattern is rounded to itself: no other pattern is as near. -/
theorem withSign_roundBits_fmag (hd : 0 < den) (h : isFinite a = true) :
    withSign (fsign a) (roundBits (fmag a * den) den) = a := by
  have hbits := roundBits_lt (fmag a * den) den
  obtain ⟨hfin, -, hnear⟩ := roundingIsToNearestTiesToEven (fmag a * den) den hd
  have hle := (hnear (hfin.mpr (Nat.mul_lt_mul_of_pos_right (fmag_lt_of_isFinite h) hd)) (fabs a)
    (by simpa using h) (fsign_fabs a)).1
  refine eq_of_fsign_eq_of_fmag_eq (fsign_withSign hbits) ?_
  rw [fmag_withSign hbits]
  refine Nat.eq_of_mul_eq_mul_right hd ?_
  rw [fmag_fabs] at hle
  push_cast at hle
  zify
  omega

/-! ### Operations with a one, a zero or an operand twice -/

theorem one_fmul (h : isFinite a = true) : fmul 0x3F800000#32 a = a := by
  have hmag : fmag 0x3F800000#32 = 2 ^ 149 := rfl
  have hsign : (fsign 0x3F800000#32 != fsign a) = fsign a := Bool.false_bne _
  rw [fmul_of_some (mulCore_finite rfl h), hmag, hsign, Nat.mul_comm]
  exact withSign_roundBits_fmag (by decide) h

theorem zero_fmul (h : isFinite a = true) : fmul 0x00000000#32 a = withSign (fsign a) 0 := by
  have hmag : fmag 0x00000000#32 = 0 := rfl
  have hsign : (fsign 0x00000000#32 != fsign a) = fsign a := Bool.false_bne _
  rw [fmul_of_some (mulCore_finite rfl h), hmag, hsign, Nat.zero_mul]
  rfl

theorem fmul_comm (ha : isFinite a = true) (hb : isFinite b = true) : fmul a b = fmul b a := by
  rw [fmul_of_some (mulCore_finite ha hb), fmul_of_some (mulCore_finite hb ha), bne_comm, Nat.mul_comm]

theorem natAbs_fval (a : F32) : (fval a).natAbs = fmag a := by
  rw [fval]
  split <;> simp

theorem fval_neg_iff (a : F32) : fval a < 0 ↔ isZero a = false ∧ fsign a = true := by
  rw [← Bool.not_eq_true (isZero a), ← fmag_eq_zero_iff, fval]
  split
  case isTrue hs => simp [hs, Nat.pos_iff_ne_zero]
  case isFalse hs => simp [hs]

/-- A zero added changes nothing but the sign of a zero of the other sign (40_numerics.md R103). -/
theorem addCore_withSign_zero (h : isFinite a = true) (neg : Bool) :
    addCore a (withSign neg 0) = some (if a = 0x80000000#32 ∧ neg = false then 0x00000000#32 else a) := by
  have hfin : isFinite (withSign neg 0) = true := by cases neg <;> rfl
  have hval : fval a + fval (withSign neg 0) = fval a := by cases neg <;> exact add_zero _
  cases hz : isZero a with
  | true =>
    have hzero : ∀ s t : Bool, withSign (s && t) 0 =
        if withSign s 0 = 0x80000000#32 ∧ t = false then 0x00000000#32 else withSign s 0 := by decide
    have hsum : fval a + fval (withSign neg 0) = 0 := by
      rw [hval, ← Int.natAbs_eq_zero, natAbs_fval, fmag_eq_zero_iff, hz]
    rw [addCore_of_eq_zero h hfin hsum, fsign_withSign (by decide), hzero, ← eq_withSign_zero hz]
  | false =>
    have hsum : fval a + fval (withSign neg 0) ≠ 0 := by
      rw [hval, ← Int.natAbs_ne_zero, natAbs_fval]
      exact (fmag_pos hz).ne'
    have hsign : decide (fval a < 0) = fsign a := by simp [fval_neg_iff, hz]
    have hne : a ≠ 0x80000000#32 := by
      rintro rfl
      exact absurd hz (by decide)
    have hround := withSign_roundBits_fmag Nat.one_pos h
    rw [Nat.mul_one] at hround
    rw [addCore_of_ne_zero h hfin hsum, hval, hsign, natAbs_fval, hround, if_neg fun hc => hne hc.1]

theorem fadd_withSign_zero (h : isFinite a = true) (neg : Bool) :
    fadd a (withSign neg 0) = if a = 0x80000000#32 ∧ neg = false then 0x00000000#32 else a :=
  fadd_of_some (addCore_withSign_zero h neg)

theorem fsub_withSign_zero (h : isFinite a = true) (neg : Bool) :
    fsub a (withSign neg 0) = if a = 0x80000000#32 ∧ neg = true then 0x00000000#32 else a := by
  have hneg : fneg (withSign neg 0) = withSign (!neg) 0 := by cases neg <;> rfl
  refine fsub_of_some ?_
  rw [hneg, addCore_withSign_zero h]
  simp only [Bool.not_eq_false']

/-! ### Non-negative operands -/

/-- A square has a positive sign, overflow included. -/
theorem fmul_self_nonneg (h : isFinite a = true) : isNaN (fmul a a) = false ∧ fsign (fmul a a) = false := by
  have hnan : isNaN (fmul a a) = false := by
    rw [fmul_of_some (mulCore_finite h h)]
    exact isNaN_withSign (roundBits_le _ _)
  exact ⟨hnan, (fsign_fmul hnan).trans (bne_self_eq_false _)⟩

theorem fadd_nonneg (ha : isNaN a = false) (hb : isNaN b = false) (hsa : fsign a = false) (hsb : fsign b = false) :
    isNaN (fadd a b) = false ∧ fsign (fadd a b) = false := by
  obtain hia | hfa := isInf_or_isFinite ha <;> obtain hib | hfb := isInf_or_isFinite hb
  · rw [fadd_of_some ((addCore_inf_inf hia hib).trans (if_pos (hsa.trans hsb.symm)))]
    exact ⟨ha, hsa⟩
  · rw [fadd_of_some (addCore_inf_finite hia hfb)]
    exact ⟨ha, hsa⟩
  · rw [fadd_of_some (addCore_finite_inf hfa hib)]
    exact ⟨hb, hsb⟩
  · by_cases hz : fval a + fval b = 0
    · rw [fadd_of_some (addCore_of_eq_zero hfa hfb hz), hsa]
      exact ⟨isNaN_withSign (Nat.zero_le _), fsign_withSign (by decide)⟩
    · have hneg : ¬ fval a + fval b < 0 := by
        rw [fval_of_pos hsa, fval_of_pos hsb]
        omega
      rw [fadd_of_some (addCore_of_ne_zero hfa hfb hz), decide_eq_false hneg]
      exact ⟨isNaN_withSign (roundBits_le _ _), fsign_withSign (roundBits_lt _ _)⟩

/-! ### Operands that are not finite -/

theorem not_isFinite_of_isNaN (h : isNaN a = true) : isFinite a = false := by
  simp_all [isNaN, isFinite]

theorem not_isFinite_of_isInf (h : isInf a = true) : isFinite a = false := by
  simp_all [isInf, isFinite]

/-- A sum with an operand that is not finite is a NaN result or an infinite operand. -/
theorem not_isFinite_of_addCore {c : F32} (h : isFinite a = false ∨ isFinite b = false) (hc : addCore a b = some c) :
    isFinite c = false := by
  obtain hnan | ⟨hna, hnb⟩ := nan_or_not_nan a b
  · cases (addCore_nan hnan).symm.trans hc
  obtain ha | ha := isInf_or_isFinite hna <;> obtain hb | hb := isInf_or_isFinite hnb
  · rw [addCore_inf_inf ha hb, Option.ite_none_right_eq_some] at hc
    exact Option.some.inj hc.2 ▸ not_isFinite_of_isInf ha
  · exact Option.some.inj ((addCore_inf_finite ha hb).symm.trans hc) ▸ not_isFinite_of_isInf ha
  · exact Option.some.inj ((addCore_finite_inf ha hb).symm.trans hc) ▸ not_isFinite_of_isInf hb
  · simp [ha, hb] at h

theorem not_isFinite_fadd (h : isFinite a = false ∨ isFinite b = false) : isFinite (fadd a b) = false := by
  cases hc : addCore a b with
  | none => exact not_isFinite_of_isNaN (isNaN_fadd_of_none hc)
  | some c => exact fadd_of_some hc ▸ not_isFinite_of_addCore h hc

theorem not_isFinite_fsub (h : isFinite a = false ∨ isFinite b = false) : isFinite (fsub a b) = false := by
  rw [← isFinite_fneg b] at h
  cases hc : addCore a (fneg b) with
  | none => exact not_isFinite_of_isNaN (isNaN_fsub_of_none hc)
  | some c => exact fsub_of_some hc ▸ not_isFinite_of_addCore h hc

/-- A quotient of two operands that are not finite is NaN (40_numerics.md R102). -/
theorem isNaN_fdiv_of_not_isFinite (ha : isFinite a = false) (hb : isFinite b = false) : isNaN (fdiv a b) = true := by
  obtain hnan | ⟨hna, hnb⟩ := nan_or_not_nan a b
  · exact isNaN_fdiv_of_none (divCore_nan hnan)
  · have hia := (isInf_or_isFinite hna).resolve_right (by simp [ha])
    have hib := (isInf_or_isFinite hnb).resolve_right (by simp [hb])
    exact isNaN_fdiv_of_none (divCore_inf_inf hia hib)

/-! ### CPROD and DISC_IN -/

/-- Settles O48: the products with `prev` are the sample's part and a zero of the other part's sign. -/
theorem firstCallProductIsTheSample : Obligations.FirstCallProductIsTheSample := by
  intro cr ci hcr hci
  have hprod : cprod 0x3F800000#32 0x00000000#32 cr ci =
      (fadd cr (fmul 0x00000000#32 ci), fsub ci (fmul 0x00000000#32 cr)) := by
    rw [cprod, one_fmul hcr, one_fmul hci]
  refine ⟨hprod, ?_⟩
  rw [hprod, zero_fmul hcr, zero_fmul hci, fadd_withSign_zero hcr, fsub_withSign_zero hci]

/-- Settles O45: each function of the unit is its formula by definition. -/
theorem discriminatorStepFollowsItsFormulas : Obligations.DiscriminatorStepFollowsItsFormulas := by
  intro sel d a b
  refine ⟨rfl, rfl, rfl, rfl, fun np => ?_⟩
  cases sel with
  | exact => rfl
  | fast => rfl

/-! ### ARG_FAST -/

/-- `flt` against +0.0 is the sign of a nonzero number (40_numerics.md R108). -/
theorem flt_posZero_iff (a : F32) : flt a posZero = true ↔ isNaN a = false ∧ isZero a = false ∧ fsign a = true := by
  cases hn : isNaN a with
  | true => simp [flt_nan (.inl hn)]
  | false =>
    have hzero : fval posZero = 0 := rfl
    rw [flt_eq hn rfl, decide_eq_true_iff, hzero, fval_neg_iff]
    simp

theorem fge_posZero_iff (a : F32) : fge a posZero = true ↔ isNaN a = false ∧ (fsign a = false ∨ isZero a = true) := by
  cases hn : isNaN a with
  | true => simp [fge_nan (.inl hn)]
  | false =>
    have hzero : fval posZero = 0 := rfl
    rw [fge_eq hn rfl, decide_eq_true_iff, hzero, ← not_lt, fval_neg_iff]
    cases fsign a <;> simp

section
variable {x : F32}

/-- ARG_FAST in the right half-plane (43_discriminator.md R158). -/
theorem argFast_right (h : fge x posZero = true) (y : F32) :
    argFast y x = (if flt y posZero = true then fneg else id) (fsub quarterPi (fmul quarterPi
      (fdiv (fsub x (fadd (fabs y) eps)) (fadd x (fadd (fabs y) eps))))) := by
  simp only [argFast, if_pos h]
  split <;> rfl

/-- ARG_FAST in the left half-plane, and of a NaN `x` (43_discriminator.md R158). -/
theorem argFast_left (h : ¬ fge x posZero = true) (y : F32) :
    argFast y x = (if flt y posZero = true then fneg else id) (fsub threeQuarterPi (fmul quarterPi
      (fdiv (fadd x (fadd (fabs y) eps)) (fsub (fadd (fabs y) eps) x)))) := by
  simp only [argFast, if_neg h]
  split <;> rfl

end

/-- A NaN ratio makes the angle NaN, whatever the sign. -/
theorem isNaN_angle_of_isNaN {r : F32} (h : isNaN r = true) (p : Prop) [Decidable p] (c q : F32) :
    isNaN ((if p then fneg else id) (fsub c (fmul q r))) = true := by
  have hmul := isNaN_fmul_of_none (mulCore_nan (a := q) (.inr h))
  have hsub := isNaN_fsub_of_none (a := c) (addCore_nan (.inr ((isNaN_fneg _).trans hmul)))
  split
  · rwa [isNaN_fneg]
  · exact hsub

/-- An operand that is not finite leaves neither part of the ratio finite. -/
theorem isNaN_argFast {y x : F32} (h : isFinite y = false ∨ isFinite x = false) : isNaN (argFast y x) = true := by
  have hparts : isFinite x = false ∨ isFinite (fadd (fabs y) eps) = false :=
    h.symm.imp_right fun hy => not_isFinite_fadd (.inl ((isFinite_fabs y).trans hy))
  by_cases hx : fge x posZero = true
  · rw [argFast_right hx]
    exact isNaN_angle_of_isNaN (isNaN_fdiv_of_not_isFinite (not_isFinite_fsub hparts) (not_isFinite_fadd hparts)) _ _ _
  · rw [argFast_left hx]
    exact isNaN_angle_of_isNaN
      (isNaN_fdiv_of_not_isFinite (not_isFinite_fadd hparts) (not_isFinite_fsub hparts.symm)) _ _ _

/-- Settles O46: the half-plane and the sign are the comparisons' by `fge_posZero_iff` and `flt_posZero_iff`; at the
origin the four patterns are evaluated. -/
theorem fastArgumentFollowsItsFormula : Obligations.FastArgumentFollowsItsFormula := by
  refine ⟨fun y x hn hx => ?right, fun y x hx => ?left, fun y x hy hx => ?origin, fun y x => isNaN_argFast⟩
  case right =>
    rw [argFast_right ((fge_posZero_iff x).mpr ⟨hn, hx⟩)]
    simp only [flt_posZero_iff]
    rfl
  case left =>
    have hge : ¬ fge x posZero = true := by
      rw [fge_posZero_iff]
      rcases hx with hx | ⟨hs, hz⟩
      · simp [hx]
      · simp [hs, hz]
    rw [argFast_left hge]
    simp only [flt_posZero_iff]
    rfl
  case origin =>
    have horigin : ∀ s t : Bool, argFast (withSign s 0) (withSign t 0) = 0x3FC90FDB#32 := by decide +kernel
    rw [eq_withSign_zero hy, eq_withSign_zero hx]
    exact horigin _ _

/-! ### ARG_EXACT, case by case -/

section
variable {y ay x m : F32}

theorem argMagnitude_nan (h : isNaN ay = true ∨ isNaN x = true) : argMagnitude ay x = nanResult .arg ay x :=
  if_pos (by simpa using h)

theorem argMagnitude_zero (hy : isZero ay = true) (hx : isNaN x = false) :
    argMagnitude ay x = if fsign x then pi32 else posZero := by
  simp [argMagnitude, isNaN_of_isFinite (isFinite_of_isZero hy), hx, hy]

theorem argMagnitude_of_isZero_right (hn : isNaN ay = false) (hy : isZero ay = false) (hx : isZero x = true) :
    argMagnitude ay x = halfPi := by
  simp [argMagnitude, isNaN_of_isFinite (isFinite_of_isZero hx), hx, hn, hy]

theorem argMagnitude_inf_right (hf : isFinite ay = true) (hy : isZero ay = false) (hx : isInf x = true) :
    argMagnitude ay x = if fsign x then pi32 else posZero := by
  simp [argMagnitude, isNaN_of_isInf hx, isZero_of_isInf hx, isNaN_of_isFinite hf, isInf_of_isFinite hf, hx, hy]

theorem argMagnitude_inf_left (hy : isInf ay = true) (hx : isFinite x = true) : argMagnitude ay x = halfPi := by
  simp [argMagnitude, isNaN_of_isInf hy, isZero_of_isInf hy, isNaN_of_isFinite hx, isInf_of_isFinite hx, hy]

/-- On the diagonals the operands have one magnitude, so both are infinite, or both finite and nonzero. -/
theorem argMagnitude_diagonal (hn : isNaN ay = false) (hy : isZero ay = false) (hm : fmag ay = fmag x) :
    argMagnitude ay x = if fsign x then threeQuarterPi else quarterPi := by
  have habs : fabs x = fabs ay := fabs_eq_fabs hm.symm
  have hnan : isNaN x = false := by rw [← isNaN_fabs, habs, isNaN_fabs, hn]
  have hzero : isZero x = false := by rw [← isZero_fabs, habs, isZero_fabs, hy]
  have hinf : isInf x = isInf ay := by rw [← isInf_fabs, habs, isInf_fabs]
  cases hi : isInf ay <;> simp [argMagnitude, hn, hy, hnan, hzero, hinf, hm, hi]

theorem argMagnitude_open (hy : isFinite ay = true) (hzy : isZero ay = false) (hx : isFinite x = true)
    (hzx : isZero x = false) (hne : fmag ay ≠ fmag x) : argMagnitude ay x = argOpen ay x := by
  simp [argMagnitude, isNaN_of_isFinite, isInf_of_isFinite, hy, hzy, hx, hzx, hne]

/-- Of operands that are no NaN the result is one of the five special values or an open one. -/
theorem argMagnitude_mem (hy : isNaN ay = false) (hx : isNaN x = false) :
    argMagnitude ay x ∈ [posZero, quarterPi, halfPi, threeQuarterPi, pi32] ∨ argMagnitude ay x = argOpen ay x := by
  simp only [argMagnitude, hy, hx, Bool.or_self, Bool.false_eq_true, if_false]
  split_ifs <;> simp

/-- ARG_EXACT puts the sign of `y` on the result for `|y|`. -/
theorem argExact_of_argMagnitude (h : argMagnitude (fabs y) x = m) :
    argExact y x = if fsign y then fneg m else m := by
  rw [argExact, h]

end

/-- Settles O49: each row by its case of `argMagnitude`, with the sign of `y`. -/
theorem argExactSpecialValues : Obligations.ArgExactSpecialValues := by
  intro y x hny hnx
  rw [← isNaN_fabs y] at hny
  rw [← isZero_fabs y, ← isFinite_fabs y, ← isInf_fabs y, ← fmag_fabs y]
  have hneg (hs : fsign x = false) : ¬ fsign x = true := Bool.eq_false_iff.mp hs
  refine ⟨fun hy hs => ?zeroRight, fun hy hs => ?zeroLeft, fun hy hx => ?axis, fun hy hf hx hs => ?infRight,
    fun hy hf hx hs => ?infLeft, fun hy hx => ?infY, fun hy hm hs => ?diagRight, fun hy hm hs => ?diagLeft⟩
  case zeroRight =>
    rw [argExact_of_argMagnitude ((argMagnitude_zero hy hnx).trans (if_neg (hneg hs))),
      eq_withSign_zero ((isZero_fabs y).symm.trans hy)]
    cases fsign y <;> rfl
  case zeroLeft => exact argExact_of_argMagnitude ((argMagnitude_zero hy hnx).trans (if_pos hs))
  case axis => exact argExact_of_argMagnitude (argMagnitude_of_isZero_right hny hy hx)
  case infRight => exact argExact_of_argMagnitude ((argMagnitude_inf_right hf hy hx).trans (if_neg (hneg hs)))
  case infLeft => exact argExact_of_argMagnitude ((argMagnitude_inf_right hf hy hx).trans (if_pos hs))
  case infY => exact argExact_of_argMagnitude (argMagnitude_inf_left hy hx)
  case diagRight => exact argExact_of_argMagnitude ((argMagnitude_diagonal hny hy hm).trans (if_neg (hneg hs)))
  case diagLeft => exact argExact_of_argMagnitude ((argMagnitude_diagonal hny hy hm).trans (if_pos hs))

/-- Settles O51: `fneg` changes the sign alone, and the result has the sign put on it. -/
theorem argExactIsOdd : Obligations.ArgExactIsOdd := by
  intro y x
  rw [argExact, argExact, fsign_fneg, fabs_fneg]
  cases fsign y <;> simp

/-- The sample's product with its own conjugate has the phase +0.0: the two products of the imaginary part are equal,
and the real part has a positive sign (43_discriminator.md R155). -/
theorem argExact_cprod_self {p q : F32} (hp : isFinite p = true) (hq : isFinite q = true)
    (hpq : isFinite (fmul p q) = true) : argExact (cprod p q p q).2 (cprod p q p q).1 = 0x00000000#32 := by
  obtain ⟨hnp, hsp⟩ := fmul_self_nonneg hp
  obtain ⟨hnq, hsq⟩ := fmul_self_nonneg hq
  obtain ⟨hnan, hsign⟩ := fadd_nonneg hnp hnq hsp hsq
  have him : fsub (fmul p q) (fmul q p) = 0x00000000#32 := by
    rw [fmul_comm hq hp]
    exact signedZeroRules.2.2.2.1 _ hpq
  rw [cprod, him]
  exact (argExactSpecialValues 0x00000000#32 _ rfl hnan).1 rfl hsign

/-- Settles O47: the second call's product is that of the kept sample with its own conjugate. -/
theorem identicalSamplesGiveZeroPhase : Obligations.IdenticalSamplesGiveZeroPhase :=
  fun _ _ _ _ => argExact_cprod_self

/-! ### ARG_EXACT's range -/

section
variable {y ay x : F32}

/-- The patterns up to that of pi32 are the values in [0, pi32]. -/
theorem range_of_toNat_le (h : a.toNat ≤ 0x40490FDB) : isFinite a = true ∧ fmag a ≤ fmag pi32 := by
  have hsign : fsign a = false := by
    rw [fsign_eq, decide_eq_false_iff_not]
    omega
  constructor
  · rw [isFinite, fexp_eq, bne_iff_ne]
    omega
  · rw [← not_lt, fmag_lt_iff rfl hsign]
    exact not_lt.mpr h

theorem argNearest_range (angle : Int) :
    isFinite (argNearest angle) = true ∧ fmag (argNearest angle) ≤ fmag pi32 := by
  have hle : min (roundBits angle.toNat (2 ^ unitBits)) 0x40490FDB ≤ 0x40490FDB := Nat.min_le_right _ _
  refine range_of_toNat_le ?_
  rw [argNearest, withSign_toNat (hle.trans_lt (by decide))]
  simp

theorem argOpen_range (ay x : F32) : isFinite (argOpen ay x) = true ∧ fmag (argOpen ay x) ≤ fmag pi32 := by
  rw [argOpen]
  split
  case isTrue h =>
    simp only [argAdmits, Bool.and_eq_true, decide_eq_true_eq] at h
    exact h.1
  case isFalse => exact argNearest_range _

theorem argExact_range (hy : isNaN y = false) (hx : isNaN x = false) :
    isFinite (argExact y x) = true ∧ fmag (argExact y x) ≤ fmag pi32 := by
  have hspecial : ∀ c ∈ [posZero, quarterPi, halfPi, threeQuarterPi, pi32], c.toNat ≤ 0x40490FDB := by
    simp [posZero, quarterPi, halfPi, threeQuarterPi, pi32]
  have hmag : isFinite (argMagnitude (fabs y) x) = true ∧ fmag (argMagnitude (fabs y) x) ≤ fmag pi32 := by
    obtain h | h := argMagnitude_mem ((isNaN_fabs y).trans hy) hx
    · exact range_of_toNat_le (hspecial _ h)
    · rw [h]
      exact argOpen_range _ _
  rw [argExact]
  split
  · rwa [isFinite_fneg, fmag_fneg]
  · exact hmag

theorem isNaN_argExact (h : isNaN y = true ∨ isNaN x = true) : isNaN (argExact y x) = true := by
  rw [← isNaN_fabs y] at h
  rw [argExact_of_argMagnitude (argMagnitude_nan h)]
  split <;> simp

end

/-- Settles O50: every special value is in range, and every open one, the draw by its admission. -/
theorem argExactStaysInRange : Obligations.ArgExactStaysInRange := by
  refine ⟨fun y x => isNaN_argExact, fun y x => argExact_range, fun np d a b => ?_⟩
  obtain hnan | ⟨hy, hx⟩ := nan_or_not_nan
    (cprod d.prevRe d.prevIm (discMap np a) (discMap np b)).2 (cprod d.prevRe d.prevIm (discMap np a) (discMap np b)).1
  · exact .inl (isNaN_argExact hnan)
  · exact .inr (argExact_range hy hx).2

/-! ### ARG_EXACT's accuracy -/

section
variable {ay x : F32}

/-- A unit in the last place of a value below `2^(e+1)`, given as units of 2^-149. -/
theorem ulpUnits_le {k : Nat} {e : ℤ} (h : (k : ℝ) < 2 ^ (e + 150)) :
    (ulpUnits k : ℝ) ≤ 2 ^ (max e (-126) + 126) := by
  have hexp : ((k.log2 - 23 : ℕ) : ℤ) ≤ max e (-126) + 126 := by
    by_cases hk : k = 0
    · subst hk
      simp only [Nat.log2_zero, Nat.zero_sub]
      omega
    · have hlog : (2 : ℝ) ^ (k.log2 : ℤ) < 2 ^ (e + 150) := by
        rw [zpow_natCast]
        exact lt_of_le_of_lt (by exact_mod_cast Nat.log2_self_le hk) h
      have := (zpow_lt_zpow_iff_right₀ one_lt_two).mp hlog
      omega
  rw [ulpUnits, Nat.cast_pow, Nat.cast_ofNat, ← zpow_natCast]
  exact zpow_le_zpow_right₀ one_le_two hexp

/-- pi32 is above pi by more than the error of the computed angle. -/
theorem angle_lt_pi32 {A θ u : ℝ} (hθ : θ ≤ Real.pi) (hu : 2 ^ 21 ≤ u) (h : A ≤ θ * (2 ^ 22 * u) + 2 ^ 17) :
    A < 13176795 * u := by
  have hpi := hθ.trans Real.pi_lt_d20.le
  have hmul := mul_le_mul_of_nonneg_right hpi (show 0 ≤ 2 ^ 22 * u by linarith)
  linarith

/-- The computed angle of a positive `y` is at least 0, but for its error, and below pi32, as `argNearest_admitted`
asks. -/
theorem angleFixed_range (hy : isZero ay = false) (hx : isZero x = false) (hne : fmag ay ≠ fmag x) :
    -(angleError : Int) ≤ angleFixed ay x ∧ (angleFixed ay x).toNat < 13176795 * 2 ^ 127 * 2 ^ unitBits := by
  obtain ⟨hlow, hhigh⟩ := abs_le.mp (angleFixed_error hy hx hne)
  have hnonneg : 0 ≤ Complex.arg ⟨fval x, fmag ay⟩ := Complex.arg_nonneg_iff.mpr (Nat.cast_nonneg _)
  constructor
  · have : 0 ≤ Complex.arg ⟨fval x, fmag ay⟩ * scale := by positivity
    exact_mod_cast (by linarith : -(angleError : ℝ) ≤ angleFixed ay x)
  · have hscale : scale = 2 ^ 22 * (2 ^ 127 * 2 ^ unitBits) := by
      rw [scale, angleBits, unitBits, ← pow_add, ← pow_add]
    have hbig : (2 : ℝ) ^ 21 ≤ 2 ^ 127 * 2 ^ unitBits := by
      rw [← pow_add]
      exact pow_le_pow_right₀ one_le_two (Nat.le_add_right_of_le (by decide))
    have hE : (angleError : ℝ) = 2 ^ 17 := by norm_num [angleError]
    rw [hscale, hE, sub_le_iff_le_add'] at hhigh
    have hlt := angle_lt_pi32 (Complex.arg_le_pi _) hbig hhigh
    rw [Int.toNat_lt' (by positivity), ← Int.cast_lt (R := ℝ), Int.cast_natCast, Nat.mul_assoc]
    simpa only [Nat.cast_mul, Nat.cast_pow, Nat.cast_ofNat] using hlt

/-- Every open value is admitted, the nearest one where the draw is not. -/
theorem argAdmits_argOpen (hy : isZero ay = false) (hx : isZero x = false) (hne : fmag ay ≠ fmag x) :
    argAdmits (angleFixed ay x) (argOpen ay x) = true := by
  obtain ⟨hlo, hhi⟩ := angleFixed_range hy hx hne
  rw [argOpen]
  split
  case isTrue h => exact h
  case isFalse => exact argNearest_admitted hlo hhi

/-- The fixed point's scale is that of the binary32 unit times that of the angle's. -/
theorem scale_eq : scale = 2 ^ 149 * 2 ^ unitBits := by rw [scale, angleBits, unitBits, ← pow_add]

/-- The lower end of the error interval, in units of 2^-149, is below the end of the real angle's binade. -/
theorem lowerEnd_lt {A : Int} {θ : ℝ} {e : ℤ} (h0 : 0 ≤ θ) (herr : |(A : ℝ) - θ * scale| ≤ angleError)
    (he : θ < 2 ^ (e + 1)) : (((A - angleError).toNat / 2 ^ unitBits : ℕ) : ℝ) < 2 ^ (e + 150) := by
  have hunit : (0 : ℝ) < 2 ^ unitBits := by positivity
  have hnat : (((A - angleError).toNat : ℕ) : ℝ) ≤ θ * scale := by
    rw [← Int.cast_natCast, Int.toNat_eq_max, Int.cast_max, max_le_iff]
    push_cast
    exact ⟨by linarith [(abs_le.mp herr).2], by positivity⟩
  rw [scale_eq] at hnat
  calc (((A - angleError).toNat / 2 ^ unitBits : ℕ) : ℝ)
      ≤ ((A - angleError).toNat : ℝ) / 2 ^ unitBits := by exact_mod_cast Nat.cast_div_le
    _ ≤ θ * 2 ^ 149 := by rwa [div_le_iff₀ hunit, mul_assoc]
    _ < 2 ^ (e + 1) * 2 ^ 149 := by gcongr
    _ = 2 ^ (e + 150) := by
      rw [← zpow_natCast, ← zpow_add₀ two_ne_zero]
      congr 1
      push_cast
      ring

/-- An open value is within one unit in the last place of the real angle, the unit being that of its binade. -/
theorem argOpen_error (hy : isZero ay = false) (hx : isZero x = false) (hne : fmag ay ≠ fmag x) {e : ℤ}
    (he : Complex.arg ⟨fval x, fmag ay⟩ < 2 ^ (e + 1)) :
    |(fval (argOpen ay x) : ℝ) / 2 ^ 149 - Complex.arg ⟨fval x, fmag ay⟩| ≤ 2 ^ (max e (-126) - 23) := by
  have herr := angleFixed_error hy hx hne
  have hsound := argAdmits_sound (argAdmits_argOpen hy hx hne) herr
  have hulp := ulpUnits_le (lowerEnd_lt (Complex.arg_nonneg_iff.mpr (Nat.cast_nonneg _)) herr he)
  generalize Complex.arg ⟨fval x, fmag ay⟩ = θ at *
  generalize ulpUnits ((angleFixed ay x - angleError).toNat / 2 ^ unitBits) = u at *
  have hunit : (0 : ℝ) < 2 ^ unitBits := by positivity
  have hpos : (0 : ℝ) < 2 ^ 149 := by positivity
  have hscaled : |(fval (argOpen ay x) : ℝ) - θ * 2 ^ 149| ≤ (u : ℝ) := by
    rw [scale_eq, ← mul_assoc, ← sub_mul, abs_mul, abs_of_pos hunit, Nat.cast_mul, Nat.cast_pow, Nat.cast_ofNat]
      at hsound
    exact le_of_mul_le_mul_right hsound hunit
  calc |(fval (argOpen ay x) : ℝ) / 2 ^ 149 - θ|
      = |(fval (argOpen ay x) : ℝ) - θ * 2 ^ 149| / 2 ^ 149 := by
        rw [div_sub' hpos.ne', abs_div, abs_of_pos hpos, mul_comm θ]
    _ ≤ 2 ^ (max e (-126) + 126) / 2 ^ 149 := by gcongr; exact hscaled.trans hulp
    _ = 2 ^ (max e (-126) - 23) := by
      rw [← zpow_natCast, ← zpow_sub₀ two_ne_zero]
      congr 1
      push_cast
      ring

end

/-- The real angle is odd in `y` off the real axis. -/
theorem arg_neg_im {x y : ℝ} (hy : 0 < y) : Complex.arg ⟨x, -y⟩ = -Complex.arg ⟨x, y⟩ := by
  have hpi : Complex.arg ⟨x, y⟩ ≠ Real.pi := fun h => hy.ne' (Complex.arg_eq_pi_iff.mp h).2
  exact (Complex.arg_conj ⟨x, y⟩).trans (if_neg hpi)

/-- Settles O52: the open value for `|y|` is within the bound, and for a negative `y` both angles are negated. -/
theorem argExactOpenValuesMeetTheBound : Obligations.ArgExactOpenValuesMeetTheBound := by
  intro y x hfy hzy hfx hzx hne e _ he
  have hpos : (0 : ℝ) < fmag y := by exact_mod_cast fmag_pos hzy
  rw [← isFinite_fabs] at hfy
  rw [← isZero_fabs] at hzy
  rw [← fmag_fabs] at hne
  have hbound := argOpen_error (e := e) hzy hzx hne
  rw [fmag_fabs] at hbound
  rw [argExact_of_argMagnitude (argMagnitude_open hfy hzy hfx hzx hne)]
  cases hs : fsign y with
  | false =>
    rw [fval_of_pos hs] at he ⊢
    rw [if_neg Bool.false_ne_true]
    exact hbound ((le_abs_self _).trans_lt he)
  | true =>
    rw [fval_of_neg hs, Int.cast_neg, Int.cast_natCast, arg_neg_im hpos] at he ⊢
    rw [abs_neg] at he
    rw [if_pos rfl, fval_fneg, Int.cast_neg, neg_div, ← neg_sub', abs_neg]
    exact hbound ((le_abs_self _).trans_lt he)

end Sys2Proof.Machine
end

section
/-! The family 44_decimator.md: DEC_IN's counter and sum within a window, by induction on the inputs, and what follows
for the ready cycles and the emitted averages. -/

namespace Sys2Proof.Machine

variable {n : BitVec 16}

/-! ### One input -/

/-- The counter advances modulo N (44_decimator.md R170). -/
theorem decIn_cnt_toNat {d : Decim} (h : d.cnt < n) (v : F32) :
    (decIn n d v).cnt.toNat = (d.cnt.toNat + 1) % n.toNat := by
  have hadd : (d.cnt + 1#16).toNat = d.cnt.toNat + 1 := by bv_omega
  rcases decIn_cases n d v with ⟨hn, he⟩ | ⟨hn, he⟩ <;> rw [he]
  · rw [← hadd, hn, Nat.mod_self]
    rfl
  · have hlt : d.cnt.toNat + 1 < n.toNat := by bv_omega
    rw [Nat.mod_eq_of_lt hlt, ← hadd]

/-- A ready cycle is one that leaves the counter at zero (44_decimator.md R170). -/
theorem decIn_ready_iff {d : Decim} (h : d.cnt < n) (v : F32) :
    (decIn n d v).ready = true ↔ (decIn n d v).cnt.toNat = 0 := by
  rcases decIn_cases n d v with ⟨hn, he⟩ | ⟨hn, he⟩ <;> rw [he]
  · exact iff_of_true rfl rfl
  · have hpos : (d.cnt + 1#16).toNat ≠ 0 := by bv_omega
    exact iff_of_false Bool.false_ne_true hpos

/-! ### The inputs since CONSTRUCT -/

theorem decRun_append (n : BitVec 16) (vs : List F32) (v : F32) :
    decRun n (vs ++ [v]) = decIn n (decRun n vs) v := by
  simp [decRun]

/-- The counter is below N between calls (44_decimator.md R170). -/
theorem decRun_cnt_lt (hn : n ≠ 0#16) (vs : List F32) : (decRun n vs).cnt < n := by
  induction vs using List.reverseRecOn with
  | nil =>
    have hcnt : (decRun n []).cnt = 0#16 := rfl
    bv_omega
  | append_singleton vs v ih =>
    rw [decRun_append]
    exact decIn_cnt_lt ih v

/-- The counter after call t is t mod N (44_decimator.md R171). -/
theorem decRun_cnt (hn : n ≠ 0#16) (vs : List F32) : (decRun n vs).cnt.toNat = vs.length % n.toNat := by
  induction vs using List.reverseRecOn with
  | nil => exact (Nat.zero_mod _).symm
  | append_singleton vs v ih =>
    rw [decRun_append, decIn_cnt_toNat (decRun_cnt_lt hn vs), ih, Nat.mod_add_mod, List.length_append,
      List.length_singleton]

/-- Call t is a ready cycle exactly when t mod N is 0 (44_decimator.md R171). -/
theorem decRun_ready_iff (hn : n ≠ 0#16) {vs : List F32} (hne : vs ≠ []) :
    (decRun n vs).ready = true ↔ vs.length % n.toNat = 0 := by
  rw [← decRun_cnt hn vs]
  obtain ⟨us, v, rfl⟩ := (List.eq_nil_or_concat' vs).resolve_left hne
  rw [decRun_append]
  exact decIn_ready_iff (decRun_cnt_lt hn us) v

/-- After whole windows nothing is accumulated: no input counts in two windows (44_decimator.md R171). -/
theorem decRun_sum_windows (hn : n ≠ 0#16) {pre : List F32} (hpre : pre.length % n.toNat = 0) :
    (decRun n pre).sum = posZero := by
  rcases List.eq_nil_or_concat' pre with rfl | ⟨us, v, rfl⟩
  · rfl
  · have hready := (decRun_ready_iff hn (by simp)).mpr hpre
    rw [decRun_append] at hready ⊢
    exact (decIn_readyClears hready).1

/-- Within a window that is not complete, the sum is that of its inputs, in order (44_decimator.md R170). -/
theorem decRun_sum_partial (hn : n ≠ 0#16) {pre win : List F32} (hpre : pre.length % n.toNat = 0)
    (hwin : win.length < n.toNat) : (decRun n (pre ++ win)).sum = win.foldl fadd posZero := by
  induction win using List.reverseRecOn with
  | nil => rw [List.append_nil, decRun_sum_windows hn hpre, List.foldl_nil]
  | append_singleton us v ih =>
    rw [List.length_append, List.length_singleton] at hwin
    have hcnt : (decRun n (pre ++ us)).cnt.toNat = us.length := by
      rw [decRun_cnt hn, List.length_append, Nat.add_mod, hpre, Nat.zero_add, Nat.mod_mod,
        Nat.mod_eq_of_lt (by omega)]
    rw [← List.append_assoc, decRun_append]
    rcases decIn_cases n (decRun n (pre ++ us)) v with ⟨hlast, -⟩ | ⟨-, he⟩
    · bv_omega
    · rw [he, ih (by omega), List.foldl_concat]

/-- The call that completes a window emits the sum of the window's inputs divided by N (44_decimator.md R171). -/
theorem decRun_out_window (hn : n ≠ 0#16) {pre win : List F32} (hpre : pre.length % n.toNat = 0)
    (hwin : win.length = n.toNat) :
    (decRun n (pre ++ win)).out = fdiv (win.foldl fadd posZero) (f32 n.toNat) := by
  rcases List.eq_nil_or_concat' win with rfl | ⟨us, v, rfl⟩
  · exact absurd (BitVec.eq_of_toNat_eq hwin.symm) hn
  · rw [List.length_append, List.length_singleton] at hwin
    have hready : (decRun n (pre ++ us ++ [v])).ready = true := by
      rw [decRun_ready_iff hn (by simp)]
      simp [hwin, hpre]
    rw [← List.append_assoc]
    rw [decRun_append] at hready ⊢
    rcases decIn_cases n (decRun n (pre ++ us)) v with ⟨-, he⟩ | ⟨-, he⟩ <;> rw [he] at hready ⊢
    · rw [decRun_sum_partial hn hpre (by omega), List.foldl_concat]
    · cases hready

/-- Settles O44: the counter is t mod N by induction on the inputs; a ready cycle is one that leaves it at zero, and
there the sum is that of the window alone, since the ready cycle before it cleared the sum. -/
theorem decimatorEmitsOncePerWindow : Obligations.DecimatorEmitsOncePerWindow := by
  intro n vs hn
  refine ⟨decRun_cnt hn vs, decRun_ready_iff hn, ?_⟩
  rintro pre win rfl hpre hwin
  exact decRun_out_window hn hpre hwin

end Sys2Proof.Machine
end

section
/-! The family 45_deemphasis.md: DEEMPH_IN as IIR_IN's recursion for two taps, and what it is with the coefficients of
`d = +0.0`. -/

namespace Sys2Proof.Machine

variable {a b : F32}

/-! ### The two-tap recursion -/

theorem shiftIn_two (v : F32) (h : Vector F32 2) : shiftIn v h = #v[v, h[0]] := by
  apply Vector.ext
  intro i hi
  rw [shiftIn_getElem]
  match i, hi with
  | 0, _ => rfl
  | 1, _ => rfl

/-- For two taps the sums over the histories have two terms and one (45_deemphasis.md R181). -/
theorem iirOut_two (hn : 0 < 2) (b a : Vector F32 2) (f : Iir 2) (v : F32) :
    iirOut hn b a f v =
      fdiv (fsub (fadd (fadd posZero (fmul b[0] v)) (fmul b[1] f.x[0])) (fadd posZero (fmul a[1] f.y[0]))) a[0] := by
  simp only [iirOut, dot_toList, dot_tail_toList a f.y v, shiftIn_two]
  rfl

/-- Settles O53: DEEMPH_IN is IIR_IN with two taps, so each history is a two-element shift and the output is
`iirOut_two`. -/
theorem deemphasisStepIsTheTwoTapRecursion : Obligations.DeemphasisStepIsTheTwoTapRecursion := fun e v =>
  ⟨rfl, rfl, shiftIn_two v e.filt.x, shiftIn_two _ e.filt.y, iirOut_two _ (deB e) (deA e) e.filt v⟩

/-! ### Operations with a one or a zero -/

theorem fdiv_one (h : isFinite a = true) : fdiv a 0x3F800000#32 = a := by
  have hmag : fmag 0x3F800000#32 = 2 ^ 149 := rfl
  have hsign : (fsign a != fsign 0x3F800000#32) = fsign a := Bool.bne_false _
  rw [fdiv_of_some (divCore_finite h rfl rfl), hmag, hsign]
  exact withSign_roundBits_fmag (by decide) h

theorem fadd_comm (ha : isFinite a = true) (hb : isFinite b = true) : fadd a b = fadd b a := by
  by_cases hz : fval a + fval b = 0
  · rw [fadd_of_some (addCore_of_eq_zero ha hb hz), fadd_of_some (addCore_of_eq_zero hb ha (by rwa [add_comm])),
      Bool.and_comm]
  · rw [fadd_of_some (addCore_of_ne_zero ha hb hz), fadd_of_some (addCore_of_ne_zero hb ha (by rwa [add_comm])),
      add_comm]

/-- A zero added to anything but -0.0 changes nothing (40_numerics.md R103). -/
theorem fadd_withSign_zero_of_ne (h : isFinite a = true) (hne : a ≠ 0x80000000#32) (neg : Bool) :
    fadd a (withSign neg 0) = a :=
  (fadd_withSign_zero h neg).trans (if_neg fun hc => hne hc.1)

/-- A sum from +0.0 has its first term, a zero as +0.0 (40_numerics.md R103). -/
theorem zero_fadd (h : isFinite a = true) :
    fadd 0x00000000#32 a = if isZero a then 0x00000000#32 else a := by
  cases hz : isZero a with
  | true =>
    rw [eq_withSign_zero hz]
    exact fadd_withSign_zero_of_ne rfl (by decide) _
  | false =>
    have hne : a ≠ 0x80000000#32 := fun ha => absurd (ha ▸ hz) (by decide)
    rw [fadd_comm rfl h]
    exact fadd_withSign_zero_of_ne h hne false

/-- A difference from which +0.0 is taken is unchanged, -0.0 included (40_numerics.md R103). -/
theorem fsub_zero (h : isFinite a = true) : fsub a 0x00000000#32 = a :=
  (fsub_withSign_zero h false).trans (if_neg fun hc => Bool.false_ne_true hc.2)

theorem fmul_of_isZero (ha : isZero a = true) (hb : isFinite b = true) :
    fmul a b = withSign (fsign a != fsign b) 0 := by
  rw [fmul_of_some (mulCore_finite (isFinite_of_isZero ha) hb), (fmag_eq_zero_iff a).mpr ha, Nat.zero_mul]
  rfl

/-- A zero times a NaN or an infinity is NaN (40_numerics.md R102, R105). -/
theorem isNaN_fmul_of_isZero (ha : isZero a = true) (hb : isFinite b = false) : isNaN (fmul a b) = true := by
  refine isNaN_fmul_of_none ?_
  cases hn : isNaN b with
  | true => exact mulCore_nan (.inr hn)
  | false =>
    have hinf : isInf b = true := (isInf_or_isFinite hn).resolve_right (by simp [hb])
    exact (mulCore_finite_inf (isFinite_of_isZero ha) hinf).trans (if_pos ha)

/-! ### The coefficients of `d = +0.0` -/

section
variable {e : DeEmph} (hb0 : e.b0 = 0x3F800000#32) (ha1 : e.a1 = 0x80000000#32)
include hb0 ha1

/-- R181's output with the coefficients of `d = +0.0` (45_deemphasis.md R180, R183). -/
theorem deemphIn_out_of_zero (v : F32) :
    (deemphIn e v).filt.out =
      fdiv
        (fsub
          (fadd (fadd 0x00000000#32 (fmul 0x3F800000#32 v)) (fmul 0x00000000#32 e.filt.x[0]))
          (fadd 0x00000000#32 (fmul 0x80000000#32 e.filt.y[0])))
        0x3F800000#32 := by
  obtain ⟨-, -, -, -, hout⟩ := deemphasisStepIsTheTwoTapRecursion e v
  rwa [hb0, ha1] at hout

/-- Both terms of the histories are zeros, which change the input at most in the sign of a zero. -/
theorem deemphIn_passes {v : F32} (hv : isFinite v = true) (hx : isFinite e.filt.x[0] = true)
    (hy : isFinite e.filt.y[0] = true) :
    (deemphIn e v).filt.out = if isZero v then 0x00000000#32 else v := by
  set w : F32 := if isZero v then 0x00000000#32 else v with hw
  have hfirst : fadd 0x00000000#32 (fmul 0x3F800000#32 v) = w := by rw [one_fmul hv, zero_fadd hv]
  have hfin : isFinite w = true := by
    rw [hw]
    split
    · rfl
    · exact hv
  have hne : w ≠ 0x80000000#32 := by
    rw [hw]
    split
    · decide
    · rintro rfl
      contradiction
  have hfeedback : fadd 0x00000000#32 (fmul 0x80000000#32 e.filt.y[0]) = 0x00000000#32 := by
    rw [fmul_of_isZero rfl hy]
    exact fadd_withSign_zero_of_ne rfl (by decide) _
  rw [deemphIn_out_of_zero hb0 ha1, hfirst, zero_fmul hx, fadd_withSign_zero_of_ne hfin hne, hfeedback,
    fsub_zero hfin, fdiv_one hfin]

/-- A zero coefficient times a history that is not finite is NaN, and the NaN reaches the output. -/
theorem isNaN_deemphIn_out (v : F32) (h : isFinite e.filt.x[0] = false ∨ isFinite e.filt.y[0] = false) :
    isNaN (deemphIn e v).filt.out = true := by
  rw [deemphIn_out_of_zero hb0 ha1]
  refine isNaN_fdiv_of_none (divCore_nan (.inl (isNaN_fsub_of_none (addCore_nan ?_))))
  rw [isNaN_fneg]
  exact h.imp (fun hx => isNaN_fadd_of_none (addCore_nan (.inr (isNaN_fmul_of_isZero rfl hx))))
    (fun hy => isNaN_fadd_of_none (addCore_nan (.inr (isNaN_fmul_of_isZero rfl hy))))

end

/-- Settles O54: with finite histories R181's output is the input through a sum from +0.0, and a history that is not
finite meets a zero coefficient. -/
theorem deemphasisWithZeroCoefficientPassesThrough : Obligations.DeemphasisWithZeroCoefficientPassesThrough :=
  ⟨fsub_zero (a := one) rfl, rfl, fun _ v hb0 ha1 => ⟨deemphIn_passes hb0 ha1, isNaN_deemphIn_out hb0 ha1 v⟩⟩

end Sys2Proof.Machine
end

section
/-! The family 46_pipeline.md: the conversion to PCM, the pair step with its emission, the counts of a sequence of
PAIRs, and the stream of samples that reaches the Sink. -/

namespace Sys2Proof.Machine

/-! ### The Sink's acceptance -/

/-- Settles O8: the Sink's acceptance in FLUSH and outside it. -/
theorem sinkAcceptDeliversThePendingBlock : Obligations.SinkAcceptDeliversThePendingBlock := by
  intro s r hs
  rw [step_of_sink hs]
  rcases sinkAccept_cases { s with schedule := r } with ⟨hm, he⟩ | ⟨hm, he⟩ <;> rw [he]
  · exact ⟨fun _ => rfl, fun hne => absurd hm hne⟩
  · exact ⟨fun hf => absurd hf hm, fun _ => rfl⟩

/-! ### The conversion to PCM -/

section
variable {w : F32}

theorem fval_two31 : fval two31 = 2 ^ 180 := by decide

/-- What does not fit a 32-bit integer becomes 0x80000000 (46_pipeline.md R194). -/
theorem toInt32_of_not_fits (h : isNaN w = true ∨ 2 ^ 180 ≤ fval w ∨ fval w < -(2 ^ 180)) :
    toInt32 w = 0x80000000#32 := by
  refine if_pos ?_
  cases hn : isNaN w with
  | true => rfl
  | false =>
    rw [fge_eq hn rfl, flt_eq hn rfl, fval_fneg, fval_two31]
    simpa [hn] using h

/-- What fits is truncated toward zero (46_pipeline.md R194). -/
theorem toInt32_of_fits (hn : isNaN w = false) (hlo : -(2 ^ 180) ≤ fval w) (hhi : fval w < 2 ^ 180) :
    toInt32 w = BitVec.ofInt 32 ((fval w).tdiv (2 ^ 149)) := by
  refine if_neg ?_
  rw [fge_eq hn rfl, flt_eq hn rfl, fval_fneg, fval_two31]
  simpa [hn] using ⟨hhi, hlo⟩

/-- The low 16 bits of a 32-bit integer are that integer modulo 2^16. -/
theorem extractLsb'_ofInt (z : Int) : (BitVec.ofInt 32 z).extractLsb' 0 16 = BitVec.ofInt 16 z := by
  apply BitVec.eq_of_toNat_eq
  rw [BitVec.extractLsb'_toNat, BitVec.toNat_ofInt, BitVec.toNat_ofInt, Nat.shiftRight_zero]
  omega

end

/-- Settles O41: the two cases of the conversion to a 32-bit integer, of which the low half is kept. -/
theorem pcmConversionTruncatesAndWraps : Obligations.PcmConversionTruncatesAndWraps := by
  intro w
  refine ⟨fun h => ?_, fun hn hlo hhi => ?_⟩
  · rw [toPcm, toInt32_of_not_fits h]
    rfl
  · rw [toPcm, toInt32_of_fits hn hlo hhi, extractLsb'_ofInt]

/-! ### The pair step -/

section
variable (np : NormPoint) (ib qb : Byte) (w : Word) (s : State)

/-- A PAIR byte is converted as the number it is (30_encoding.md R89). -/
theorem byteValue_eq (u : Byte) : byteValue u = f32 u.toNat := by
  rw [byteValue, BitVec.toNat_setWidth_of_le (by decide)]

@[simp] theorem pairFront_mode : (pairFront np ib qb s).mode = s.mode := by simp [pairFront]
@[simp] theorem pairFront_decimN : (pairFront np ib qb s).decimN = s.decimN := by simp [pairFront]
@[simp] theorem pairFront_scale : (pairFront np ib qb s).scale = s.scale := by simp [pairFront]
@[simp] theorem pairFront_de : (pairFront np ib qb s).de = s.de := by simp [pairFront]
@[simp] theorem pairFront_buf : (pairFront np ib qb s).buf = s.buf := by simp [pairFront]
@[simp] theorem pairFront_pcmCount : (pairFront np ib qb s).pcmCount = s.pcmCount := by simp [pairFront]
@[simp] theorem pairFront_pairCount : (pairFront np ib qb s).pairCount = s.pairCount + 1#32 := by simp [pairFront]
@[simp] theorem pairFront_sinkLog : (pairFront np ib qb s).sinkLog = s.sinkLog := by simp [pairFront]

/-- The decimator takes what the discriminator gives in the same pair step (46_pipeline.md R190 step 3). -/
theorem pairFront_dec :
    (pairFront np ib qb s).dec = decIn s.decimN s.dec (pairFront np ib qb s).disc.out := by
  simp [pairFront]

end

section
variable {np : NormPoint} {ib qb : Byte} {w : Word} {s : State}

/-- With the recursive smoothers, the discriminator takes their outputs (46_pipeline.md R190 steps 1 and 2). -/
theorem pairFront_recursive (h : s.ctrl.smooth = .recursive) :
    pairFront np ib qb s =
      let si := smootherIn (Config.coef s.ctrl.orderSel) s.si (pairMap np (byteValue ib))
      let sq := smootherIn (Config.coef s.ctrl.orderSel) s.sq (pairMap np (byteValue qb))
      decimate { s with si := si, sq := sq, disc := discIn np s.ctrl.argsel s.disc si.out sq.out } := by
  simp [pairFront, discriminate, smooth, smoothI, smoothQ, h]

/-- With the box smoothers, the discriminator takes their outputs (46_pipeline.md R190 steps 1 and 2). -/
theorem pairFront_box (h : s.ctrl.smooth = .box) :
    pairFront np ib qb s =
      let bi := boxIn s.boxN.toNat s.bi (pairMap np (byteValue ib))
      let bq := boxIn s.boxN.toNat s.bq (pairMap np (byteValue qb))
      decimate { s with bi := bi, bq := bq, disc := discIn np s.ctrl.argsel s.disc bi.out bq.out } := by
  simp [pairFront, discriminate, smooth, smoothI, smoothQ, h]

/-- Without a ready cycle the pair step ends with the decimator (46_pipeline.md R192). -/
theorem pairStep_of_not_ready (h : (pairFront np ib qb s).dec.ready = false) :
    pairStep np ib qb w s = pairFront np ib qb s := by
  simp [pairStep, h]

/-- A ready cycle with room in the buffer appends one sample (46_pipeline.md R192 to R194). -/
theorem pairStep_of_room (h : (pairFront np ib qb s).dec.ready = true) (hl : s.buf.length ≠ 8192) :
    pairStep np ib qb w s =
      let de := deemphIn s.de (pairFront np ib qb s).dec.out
      { pairFront np ib qb s with
        de := de, buf := s.buf ++ [toPcm (fmul de.filt.out s.scale)], pcmCount := s.pcmCount + 1#32 } := by
  obtain ⟨-, he⟩ := (emit_cases w (pairFront np ib qb s)).resolve_left fun hf => hl (by simpa [outLen] using hf.1)
  simp [pairStep, h, he]

/-- A ready cycle on a full buffer raises OUT_OVERFLOW (46_pipeline.md R195). -/
theorem pairStep_of_full (h : (pairFront np ib qb s).dec.ready = true) (hl : s.buf.length = 8192) :
    pairStep np ib qb w s =
      raiseFault .outOverflow w
        { pairFront np ib qb s with de := deemphIn s.de (pairFront np ib qb s).dec.out } := by
  obtain ⟨-, he⟩ := (emit_cases w (pairFront np ib qb s)).resolve_right fun hf => hf.1 (by simpa [outLen] using hl)
  simp [pairStep, h, he]

end

/-- EMIT leaves everything but the de-emphasis filter, the buffer, PCM_COUNT and the fault record. -/
theorem pairStep_frame (np : NormPoint) (ib qb : Byte) (w : Word) (s : State) :
    pairStep np ib qb w s = { pairFront np ib qb s with
      de := (pairStep np ib qb w s).de, buf := (pairStep np ib qb w s).buf
      pcmCount := (pairStep np ib qb w s).pcmCount, mode := (pairStep np ib qb w s).mode
      err := (pairStep np ib qb w s).err, errCmd := (pairStep np ib qb w s).errCmd } := by
  rcases pairStep_cases np ib qb w s with ⟨-, he⟩ | ⟨-, he⟩ <;> rw [he]
  rcases emit_cases w (pairFront np ib qb s) with ⟨-, he⟩ | ⟨-, he⟩ <;> rw [he]
  rfl

/-- Settles O26: the units by the two kinds of smoothers, the three emission cases by the ready flag and the room in the
buffer, and the frame of the pair step. -/
theorem pairRunsTheUnitsInOrder : Obligations.PairRunsTheUnitsInOrder := by
  intro ib qb s hm
  have hdec := congrArg State.dec (pairStep_frame .after ib qb (pairWord ib qb) s)
  refine ⟨pairStep .after ib qb (pairWord ib qb) s, exec_pair_inblock hm ib qb, fun h => ?recursive, fun h => ?box,
    ?decimator, ?pairCount, fun h => ?notReady, fun h hl => ?room, fun h hl => ?full, ?frame⟩
  case recursive =>
    rw [pairStep_frame, pairFront_recursive h, byteValue_eq, byteValue_eq]
    exact ⟨rfl, rfl, rfl, rfl, rfl⟩
  case box =>
    rw [pairStep_frame, pairFront_box h, byteValue_eq, byteValue_eq]
    exact ⟨rfl, rfl, rfl, rfl, rfl⟩
  case decimator =>
    rw [pairStep_frame]
    exact pairFront_dec ..
  case pairCount =>
    rw [pairStep_frame]
    exact pairFront_pairCount ..
  case notReady =>
    rw [pairStep_of_not_ready (hdec ▸ h)]
    simp [hm, pairFront]
  case room =>
    rw [pairStep_of_room (hdec ▸ h) hl]
    simp [hm, pairFront]
  case full =>
    rw [pairStep_of_full (hdec ▸ h) hl]
    simp [pairWord]
  case frame =>
    rw [pairStep_frame, pairFront_frame]
    exact ⟨rfl, rfl, rfl, rfl, rfl, rfl, rfl, rfl, rfl, rfl, rfl⟩

/-! ### Sequences of PAIRs -/

/-- What `k` PAIRs make of `s` where every sample finds room (46_pipeline.md R196). -/
structure AfterPairs (k : Nat) (s t : State) : Prop where
  mode : t.mode = .inblock
  decimN : t.decimN = s.decimN
  cnt : t.dec.cnt.toNat = (s.dec.cnt.toNat + k) % s.decimN.toNat
  length : t.buf.length = s.buf.length + (s.dec.cnt.toNat + k) / s.decimN.toNat
  pairCount : t.pairCount = s.pairCount + BitVec.ofNat 32 k
  kept : s.buf <+: t.buf

section
variable {j k : Nat} {s t u : State}

/-- The samples of `k` inputs more, counted in two parts. -/
theorem div_add_mod_add_div {n : Nat} (hn : 0 < n) (a k : Nat) : a / n + (a % n + k) / n = (a + k) / n := by
  rw [← Nat.mul_add_div hn, ← Nat.add_assoc, Nat.div_add_mod]

theorem decimN_toNat_pos (hc : s.dec.cnt < s.decimN) : 0 < s.decimN.toNat := by bv_omega

theorem AfterPairs.zero (hm : s.mode = .inblock) (hc : s.dec.cnt < s.decimN) : AfterPairs 0 s s where
  mode := hm
  decimN := rfl
  cnt := (Nat.mod_eq_of_lt hc).symm
  length := by rw [Nat.add_zero, Nat.div_eq_of_lt hc, Nat.add_zero]
  pairCount := (BitVec.add_zero _).symm
  kept := List.prefix_rfl

theorem AfterPairs.cnt_lt (h : AfterPairs j s t) (hc : s.dec.cnt < s.decimN) : t.dec.cnt < t.decimN := by
  rw [BitVec.lt_def, h.cnt, h.decimN]
  exact Nat.mod_lt _ (decimN_toNat_pos hc)

/-- The buffer's length after `k` PAIRs more, counted from the first state. -/
theorem AfterPairs.length_add (h : AfterPairs j s t) (hc : s.dec.cnt < s.decimN) (k : Nat) :
    t.buf.length + (t.dec.cnt.toNat + k) / t.decimN.toNat =
      s.buf.length + (s.dec.cnt.toNat + (j + k)) / s.decimN.toNat := by
  rw [h.length, h.cnt, h.decimN, Nat.add_assoc, div_add_mod_add_div (decimN_toNat_pos hc), Nat.add_assoc]

theorem AfterPairs.trans (h : AfterPairs j s t) (h' : AfterPairs k t u) (hc : s.dec.cnt < s.decimN) :
    AfterPairs (j + k) s u where
  mode := h'.mode
  decimN := h'.decimN.trans h.decimN
  cnt := by rw [h'.cnt, h.cnt, h.decimN, Nat.mod_add_mod, Nat.add_assoc]
  length := h'.length.trans (h.length_add hc k)
  pairCount := by rw [h'.pairCount, h.pairCount, BitVec.add_assoc, BitVec.ofNat_add_ofNat]
  kept := h.kept.trans h'.kept

/-- One PAIR: the count is that of the decimator, which is ready exactly where the window is full. -/
theorem afterPairs_pairStep (hm : s.mode = .inblock) (hc : s.dec.cnt < s.decimN)
    (hroom : s.buf.length + (s.dec.cnt.toNat + 1) / s.decimN.toNat ≤ 8192)
    (np : NormPoint) (ib qb : Byte) (w : Word) :
    AfterPairs 1 s (pairStep np ib qb w s) := by
  have hcnt : (pairFront np ib qb s).dec.cnt.toNat = (s.dec.cnt.toNat + 1) % s.decimN.toNat := by
    rw [pairFront_dec, decIn_cnt_toNat hc]
  have hready := decIn_ready_iff hc (pairFront np ib qb s).disc.out
  rw [← pairFront_dec, hcnt] at hready
  cases hr : (pairFront np ib qb s).dec.ready with
  | false =>
    have hdiv : (s.dec.cnt.toNat + 1) / s.decimN.toNat = 0 := by
      refine Nat.div_eq_of_lt (lt_of_le_of_ne hc fun heq => ?_)
      simp [heq, hr] at hready
    rw [pairStep_of_not_ready hr]
    exact
      { mode := by simp [hm], decimN := by simp, cnt := hcnt, length := by simp [hdiv], pairCount := by simp
        kept := by simp }
  | true =>
    have hdiv : (s.dec.cnt.toNat + 1) / s.decimN.toNat = 1 := by
      have hdvd := Nat.dvd_of_mod_eq_zero (hready.mp hr)
      have hfull : s.dec.cnt.toNat + 1 = s.decimN.toNat :=
        Nat.le_antisymm hc (Nat.le_of_dvd (Nat.succ_pos _) hdvd)
      rw [hfull, Nat.div_self (decimN_toNat_pos hc)]
    rw [pairStep_of_room hr (by omega)]
    exact
      { mode := by simp [hm], decimN := by simp, cnt := hcnt, length := by simp [hdiv], pairCount := by simp
        kept := List.prefix_append .. }

theorem runPairs_cons (hm : s.mode = .inblock) (p : Byte × Byte) (ps : List (Byte × Byte)) :
    runPairs (p :: ps) s = runPairs ps (pairStep Config.normPoint p.1 p.2 (pairWord p.1 p.2) s) := by
  rw [runPairs, exec_pair_inblock hm]

/-- A sequence of PAIRs for whose samples the buffer has room runs to its end (46_pipeline.md R196). -/
theorem runPairs_afterPairs (ps : List (Byte × Byte)) (hm : s.mode = .inblock) (hc : s.dec.cnt < s.decimN)
    (hroom : s.buf.length + (s.dec.cnt.toNat + ps.length) / s.decimN.toNat ≤ 8192) :
    ∃ t, runPairs ps s = .next t ∧ AfterPairs ps.length s t := by
  induction ps generalizing s with
  | nil => exact ⟨s, rfl, .zero hm hc⟩
  | cons p ps ih =>
    rw [List.length_cons, Nat.add_comm ps.length] at hroom ⊢
    have hfirst : (s.dec.cnt.toNat + 1) / s.decimN.toNat ≤ (s.dec.cnt.toNat + (1 + ps.length)) / s.decimN.toNat :=
      Nat.div_le_div_right (by omega)
    have hone := afterPairs_pairStep hm hc (by omega) Config.normPoint p.1 p.2 (pairWord p.1 p.2)
    obtain ⟨t, hrun, hrest⟩ := ih hone.mode (hone.cnt_lt hc) ((hone.length_add hc _).trans_le hroom)
    exact ⟨t, (runPairs_cons hm p ps).trans hrun, hone.trans hrest hc⟩

end

/-- Settles O57: by induction on the PAIRs, each of which advances the counter modulo N. -/
theorem pairsAppendOneSamplePerWindow : Obligations.PairsAppendOneSamplePerWindow := by
  intro ps s hm hc hroom
  obtain ⟨t, hrun, h⟩ := runPairs_afterPairs ps hm hc hroom
  exact ⟨t, hrun, h.mode, h.length, h.cnt, h.pairCount, h.kept⟩

/-! ### The stream of samples -/

/-- The blocks delivered only grow, and the delivered samples with the buffered ones behind them are the same stream,
with at most one new sample (46_pipeline.md R198). -/
def Continues (s t : State) : Prop :=
  s.sinkLog <+: t.sinkLog ∧
    ∃ new : List Sample, new.length ≤ 1 ∧ t.sinkLog.flatten ++ t.buf = s.sinkLog.flatten ++ s.buf ++ new

section
variable {s t : State} {i : Instr}

theorem Continues.append {new : List Sample} (hn : new.length ≤ 1) (hlog : t.sinkLog = s.sinkLog)
    (hbuf : t.buf = s.buf ++ new) : Continues s t := by
  refine ⟨hlog ▸ List.prefix_rfl, new, hn, ?_⟩
  rw [hlog, hbuf, List.append_assoc]

theorem Continues.same (hlog : t.sinkLog = s.sinkLog) (hbuf : t.buf = s.buf) : Continues s t :=
  .append (new := []) (Nat.zero_le _) hlog (by rw [hbuf, List.append_nil])

/-- A PAIR appends at most the one sample that EMIT makes. -/
theorem pairStep_continues (np : NormPoint) (ib qb : Byte) (w : Word) (s : State) :
    Continues s (pairStep np ib qb w s) := by
  cases hr : (pairFront np ib qb s).dec.ready with
  | false =>
    rw [pairStep_of_not_ready hr]
    exact .same (by simp) (by simp)
  | true =>
    by_cases hl : s.buf.length = 8192
    · rw [pairStep_of_full hr hl]
      exact .same (by simp) (by simp)
    · rw [pairStep_of_room hr hl]
      exact .append (new := [_]) (Nat.le_refl 1) (by simp) rfl

/-- Of the effects, RESET ends in UNCONF, and CONSTRUCT empties a buffer that is empty in UNCONF already. -/
theorem Effect.continues (h : Effect i s t) (hempty : s.mode = .unconf → s.buf = []) (ht : t.mode ≠ .unconf) :
    Continues s t := by
  cases h with
  | reset => exact absurd rfl ht
  | construct _ hm => exact .same rfl (hempty hm).symm
  | pair => exact pairStep_continues ..
  | same | read | hold | fault | blockBegin | blockEnd | config => exact .same rfl rfl

theorem hostStep_continues {x : Bool} (h : hostStep x s = .next t) (hempty : s.mode = .unconf → s.buf = [])
    (ht : t.mode ≠ .unconf) : Continues s t := by
  rcases hostStep_next h with ⟨-, -, rfl⟩ | ⟨-, -, rfl⟩ | ⟨i, -, -, he⟩ | ⟨q, rest, i, -, -, -, he⟩
  · exact .same rfl rfl
  · exact .same rfl rfl
  · exact (exec_effect he).continues hempty ht
  · exact (exec_effect he).continues hempty ht

/-- The Sink's acceptance moves the block from the buffer to what is delivered. -/
theorem sinkAccept_continues (s : State) : Continues s (sinkAccept s) := by
  rcases sinkAccept_cases s with ⟨-, he⟩ | ⟨-, he⟩ <;> rw [he]
  · exact ⟨List.prefix_append .., [], Nat.zero_le _, by simp⟩
  · exact .same rfl rfl

end

/-- Settles O58: the effects of an instruction and the Sink's acceptance continue the stream, and HW_RESET ends in
UNCONF. -/
theorem outputStreamOnlyGrows : Obligations.OutputStreamOnlyGrows := by
  intro s t hinv h ht
  have hempty : s.mode = .unconf → s.buf = [] := fun hm => hinv.emptyOutsideBlock (.inl hm)
  rcases step_cases s with ⟨-, he⟩ | ⟨r, -, he⟩ | ⟨r, -, he⟩ | ⟨r, -, he⟩ <;> rw [he] at h
  · exact hostStep_continues h hempty ht
  · exact hostStep_continues (s := { s with schedule := r }) h hempty ht
  · cases h
    exact sinkAccept_continues { s with schedule := r }
  · cases h
    exact absurd rfl ht

end Sys2Proof.Machine
end

section
/-! The family 47_host_interface.md: the register reads, the commands and the configuration writes by the STATE they
execute in, the table of next STATEs, and how FLUSH is left. -/

namespace Sys2Proof.Machine

variable {s t : State} {i : Instr}

/-! ### The register reads -/

/-- A read at the offset of its row returns REGVAL of that offset (47_host_interface.md R224). -/
theorem exec_readTable_row (s : State) :
    ∀ p ∈ readTable, ∃ v, regVal p.1 s = some v ∧ exec p.2 s = .next (returnRead v s) := by
  simp only [readTable, List.cons_append, List.nil_append, List.forall_mem_cons, List.not_mem_nil, false_imp_iff,
    implies_true, and_true]
  and_intros <;> exact ⟨_, rfl, rfl⟩

/-- What a read at a register's offset decodes to and answers. -/
theorem read_returns {off : Offset} {v : Word} (hrow : readTable.lookup off = some i) (hv : regVal off s = some v) :
    decode (readAt off) = .ok i ∧ exec i s = .next { s with reads := s.reads ++ [v] } := by
  have hmem := mem_of_lookup_eq_some hrow
  obtain ⟨u, hu, he⟩ := exec_readTable_row s _ hmem
  cases hu.symm.trans hv
  exact ⟨decode_readAt hmem, he⟩

/-- Settles O16: a broken offset is a bus error, and every other one has its row in the read map. -/
theorem readsAtEveryOffsetReturnRegvalOrAreRefused : Obligations.ReadsAtEveryOffsetReturnRegvalOrAreRefused := by
  refine fun off s => ⟨fun h => ?_, fun hmod hlt => ?_⟩
  · have hb : isBusError off .w32 0xF#4 = true := (isBusError_iff ..).mpr (.inr (.inr h))
    have hd := decode_busError (a := fullAccess (mkDesc false off) 0#32) (by simp) (by simpa using hb)
    rw [fullAccess_desc, descOff_mkDesc] at hd
    exact ⟨_, hd, rfl⟩
  · have hmem := mem_accessTable_offsets ((mapped_iff off).mpr ⟨hmod, hlt⟩) false 0#32
    obtain ⟨⟨_, i⟩, hrow, rfl⟩ := List.mem_map.mp hmem
    obtain ⟨v, hv, he⟩ := exec_readTable_row s _ hrow
    exact ⟨i, v, decode_readAt hrow, hv, he⟩

theorem setWidth_eq_zero_append (x : BitVec 16) : x.setWidth 32 = 0#16 ++ x := BitVec.setWidth_eq_append (by decide)

theorem Smooth.bit_eq (m : Smooth) : m.bit = if m = .box then 1#1 else 0#1 := by cases m <;> rfl

theorem ArgSel.bit_eq (a : ArgSel) : a.bit = if a = .fast then 1#1 else 0#1 := by cases a <;> rfl

theorem ofBool_eq_ite (b : Bool) : BitVec.ofBool b = if b then 1#1 else 0#1 := by cases b <;> rfl

theorem smoothI_eq (s : State) : smoothI s = if s.ctrl.smooth = .recursive then s.si.out else s.bi.out := by
  unfold smoothI
  cases s.ctrl.smooth <;> rfl

theorem smoothQ_eq (s : State) : smoothQ s = if s.ctrl.smooth = .recursive then s.sq.out else s.bq.out := by
  unfold smoothQ
  cases s.ctrl.smooth <;> rfl

/-- Settles O13: CTRL's two bits by their values, DECIM_N and BOX_N by the extension with zeros. -/
theorem configurationReadsReturnTheStoredFields : Obligations.ConfigurationReadsReturnTheStoredFields := by
  intro s
  simp only [← Smooth.bit_eq, ← ArgSel.bit_eq, ← setWidth_eq_zero_append]
  exact ⟨read_returns rfl rfl, read_returns rfl rfl, read_returns rfl rfl, read_returns rfl rfl, read_returns rfl rfl,
    read_returns rfl rfl, read_returns rfl rfl⟩

/-- Settles O14: `dec_ready` by its bit; the codes of ERR and STATE are the tabulated ones. -/
theorem statusAndCounterReadsReturnTheirRegisters : Obligations.StatusAndCounterReadsReturnTheirRegisters := by
  intro s
  simp only [← ofBool_eq_ite, ← setWidth_eq_zero_append]
  exact ⟨read_returns rfl rfl, read_returns rfl rfl, read_returns rfl rfl, read_returns rfl rfl, read_returns rfl rfl,
    read_returns rfl rfl, read_returns rfl rfl⟩

/-- Settles O15: the smoother outputs by CTRL.SMOOTH. -/
theorem debugReadsReturnTheUnitOutputs : Obligations.DebugReadsReturnTheUnitOutputs := by
  intro s
  simp only [← smoothI_eq, ← smoothQ_eq]
  exact ⟨read_returns rfl rfl, read_returns rfl rfl, read_returns rfl rfl, read_returns rfl rfl, read_returns rfl rfl,
    read_returns rfl rfl⟩

/-! ### The writes to read-only registers -/

/-- Settles O19: each write is its own encoding, which decodes to it. -/
theorem readOnlyWritesAreRefused : Obligations.ReadOnlyWritesAreRefused := by
  intro v s
  have hdec := decodeOfEncodeIsTheInstruction
  exact ⟨⟨hdec (.wrId v) rfl, rfl⟩, ⟨hdec (.wrStatus v) rfl, rfl⟩, ⟨hdec (.wrErrCmd v) rfl, rfl⟩,
    ⟨hdec (.wrOutCount v) rfl, rfl⟩, ⟨hdec (.wrPairCount v) rfl, rfl⟩, ⟨hdec (.wrPcmCount v) rfl, rfl⟩,
    ⟨hdec (.wrBlockCount v) rfl, rfl⟩, ⟨hdec (.wrDecimCnt v) rfl, rfl⟩, ⟨hdec (.wrDbgSmoothI v) rfl, rfl⟩,
    ⟨hdec (.wrDbgSmoothQ v) rfl, rfl⟩, ⟨hdec (.wrDbgPhase v) rfl, rfl⟩, ⟨hdec (.wrDbgDecimOut v) rfl, rfl⟩,
    ⟨hdec (.wrDbgDeemphOut v) rfl, rfl⟩, ⟨hdec (.wrCaps v) rfl, rfl⟩⟩

/-! ### The commands -/

section
variable {legal : Mode} {w : Word} {e : State → State}

theorem commandIn_fault (hm : s.mode = .fault) : commandIn legal w e s = s := if_pos hm

theorem commandIn_legal (hf : legal ≠ .fault) (hm : s.mode = legal) : commandIn legal w e s = e s :=
  (if_neg (hm ▸ hf)).trans (if_pos hm)

theorem commandIn_protocol (hf : s.mode ≠ .fault) (hm : s.mode ≠ legal) :
    commandIn legal w e s = raiseFault .protocol w s :=
  (if_neg hf).trans (if_neg hm)

/-- Outside FAULT a command leads where its effect does in the state in which it is legal, and to FAULT from the
others. -/
theorem commandIn_mode_mem {ms : List Mode} (hf : s.mode ≠ .fault) (h : s.mode = legal → (e s).mode ∈ ms) :
    (commandIn legal w e s).mode ∈ if s.mode = legal then ms else [.fault] := by
  by_cases hm : s.mode = legal
  · rw [if_pos hm, commandIn_legal (hm ▸ hf) hm]
    exact h hm
  · rw [if_neg hm, commandIn_protocol hf hm]
    exact List.mem_singleton_self _

end

theorem commandEffect_construct : commandEffect .construct s = commandIn .unconf 0x02000000#32 construct s := rfl

theorem commandEffect_blockBegin :
    commandEffect .blockBegin s = commandIn .ready 0x10000000#32 (fun s => { s with mode := .inblock }) s := rfl

theorem commandEffect_pair (ib qb : Byte) : commandEffect (.pair ib qb) s =
    commandIn .inblock (pairWord ib qb) (pairStep Config.normPoint ib qb (pairWord ib qb)) s := rfl

theorem commandEffect_blockEnd :
    commandEffect .blockEnd s = commandIn .inblock 0x12000000#32 (fun s => { s with mode := .flush }) s := rfl

theorem commandEffect_illegal (w : Word) :
    commandEffect (.illegal w) s = if s.mode = .fault then s else raiseFault .illegalCmd w s := rfl

/-- Outside FLUSH a command takes its row of EXEC_CMD (47_host_interface.md R223, R225). -/
theorem exec_command_run (c : Command) (hm : s.mode ≠ .flush) : exec c.instr s = .next (commandEffect c s) := by
  have hissue : exec c.instr s = .next (issueWrite c.instr (commandEffect c) s) := by cases c <;> rfl
  rw [hissue, issueWrite_run hm]

theorem exec_wrCmd_run (v : Word) (hm : s.mode ≠ .flush) :
    exec (.wrCmd v) s = .next (commandEffect (decodeCommand v) s) :=
  congrArg Host.Outcome.next (issueWrite_run hm)

/-- In FAULT every command but RESET is ignored (47_host_interface.md R250). -/
theorem commandEffect_fault {c : Command} (hc : c ≠ .reset) (hm : s.mode = .fault) : commandEffect c s = s := by
  cases c with
  | nop => rfl
  | reset => exact absurd rfl hc
  | construct => rw [commandEffect_construct, commandIn_fault hm]
  | blockBegin => rw [commandEffect_blockBegin, commandIn_fault hm]
  | pair ib qb => rw [commandEffect_pair, commandIn_fault hm]
  | blockEnd => rw [commandEffect_blockEnd, commandIn_fault hm]
  | illegal w => rw [commandEffect_illegal, if_pos hm]

theorem exec_command_fault (c : Command) (hc : c ≠ .reset) (hm : s.mode = .fault) : exec c.instr s = .next s := by
  rw [exec_command_run c (by simp [hm]), commandEffect_fault hc hm]

section
variable {legal : Mode} {w : Word} {e : State → State} (c : Command) (hc : commandEffect c s = commandIn legal w e s)
include hc

theorem exec_command_legal (hfl : legal ≠ .flush) (hf : legal ≠ .fault) (hm : s.mode = legal) :
    exec c.instr s = .next (e s) := by
  rw [exec_command_run c (hm ▸ hfl), hc, commandIn_legal hf hm]

theorem exec_command_protocol (hfl : s.mode ≠ .flush) (hf : s.mode ≠ .fault) (hm : s.mode ≠ legal) :
    exec c.instr s = .next (raiseFault .protocol w s) := by
  rw [exec_command_run c hfl, hc, commandIn_protocol hf hm]

end

/-- Settles O28: WR CMD and the command itself take the same row of EXEC_CMD. -/
theorem wrCmdExecutesItsCommandWord : Obligations.WrCmdExecutesItsCommandWord := fun v _ =>
  ⟨fun hm => ⟨_, exec_wrCmd_run v hm, exec_command_run _ hm⟩, exec_write_flush rfl⟩

/-- Settles O20: NOP's row of EXEC_CMD is the state itself. -/
theorem nopChangesNothing : Obligations.NopChangesNothing := fun _ =>
  ⟨exec_command_run .nop, exec_write_flush rfl⟩

/-- Settles O22: outside FLUSH RESET takes RESET_ACTION. -/
theorem resetCommandRestoresResetValues : Obligations.ResetCommandRestoresResetValues := fun _ =>
  ⟨exec_reset_run, exec_write_flush rfl⟩

theorem legalOrder_iff (o : BitVec 6) : legalOrder o = true ↔ o ∈ [12#6, 16#6, 20#6, 24#6, 28#6, 32#6] :=
  List.contains_iff_mem

/-- Settles O23: the hypotheses are those under which the checks pass. -/
theorem constructInitialisesEveryUnit : Obligations.ConstructInitialisesEveryUnit := by
  intro s hm ho hn hb
  have hc : constructCheck s = .none := (constructCheck_none_iff s).mpr ⟨(legalOrder_iff _).mpr ho, hn, hb⟩
  obtain ⟨-, he⟩ := (construct_cases s).resolve_right fun h => h.1 hc
  rw [exec_construct_unconf hm, he]
  rfl

/-- Settles O25: each of the two commands is legal in one state, a PROTOCOL fault in two, ignored in FAULT and held in
FLUSH. -/
theorem blockCommandsMoveTheController : Obligations.BlockCommandsMoveTheController := by
  intro s
  refine ⟨fun hm => ?_, fun hm => ?_, fun hm => ⟨?_, if_pos rfl⟩, fun hm => ?_, fun hm => ?_,
    fun hm => ⟨exec_write_flush rfl hm, exec_write_flush rfl hm⟩⟩
  · exact exec_command_legal .blockBegin commandEffect_blockBegin (by decide) (by decide) hm
  · rcases hm with hm | hm <;>
      exact exec_command_protocol .blockBegin commandEffect_blockBegin (by simp [hm]) (by simp [hm]) (by simp [hm])
  · exact exec_command_legal .blockEnd commandEffect_blockEnd (by decide) (by decide) hm
  · rcases hm with hm | hm <;>
      exact exec_command_protocol .blockEnd commandEffect_blockEnd (by simp [hm]) (by simp [hm]) (by simp [hm])
  · exact ⟨exec_command_fault .blockBegin (by decide) hm, exec_command_fault .blockEnd (by decide) hm⟩

/-! ### The configuration writes -/

/-- `i` is the configuration write at `off` that stores as `store` does (47_host_interface.md R216 to R220). -/
def IsConfigWrite (i : Instr) (off : Offset) (store : State → State) : Prop :=
  ∀ s, exec i s = .next (issueWrite i (configWrite off store) s)

theorem isConfigWrite_wrCtrl (v : Word) :
    IsConfigWrite (.wrCtrl v) 0x004#12 fun s => { s with ctrl := ctrlOfWord v } := fun _ => rfl

theorem isConfigWrite_wrDecimN (v : Word) :
    IsConfigWrite (.wrDecimN v) 0x008#12 fun s => { s with decimN := lowHalf v } := fun _ => rfl

theorem isConfigWrite_wrBoxN (v : Word) :
    IsConfigWrite (.wrBoxN v) 0x00C#12 fun s => { s with boxN := lowHalf v } := fun _ => rfl

theorem isConfigWrite_wrDeemphD (v : Word) :
    IsConfigWrite (.wrDeemphD v) 0x010#12 fun s => { s with deemphD := v } := fun _ => rfl

theorem isConfigWrite_wrScale (v : Word) :
    IsConfigWrite (.wrScale v) 0x014#12 fun s => { s with scale := v } := fun _ => rfl

section
variable {off : Offset} {store : State → State}

theorem IsConfigWrite.exec_unconf (h : IsConfigWrite i off store) (hm : s.mode = .unconf) :
    exec i s = .next (store s) := by
  rw [h, issueWrite_run (by simp [hm])]
  simp [configWrite, hm]

theorem IsConfigWrite.exec_locked (h : IsConfigWrite i off store) (hm : s.mode = .ready ∨ s.mode = .inblock) :
    exec i s = .next (raiseFault .protocol (configFaultWord off) s) := by
  rcases hm with hm | hm <;> rw [h, issueWrite_run (by simp [hm])] <;> simp [configWrite, hm]

theorem IsConfigWrite.exec_fault (h : IsConfigWrite i off store) (hm : s.mode = .fault) : exec i s = .next s := by
  rw [h, issueWrite_run (by simp [hm])]
  simp [configWrite, hm]

end

/-- Settles O17: the five registers by what each stores and by its fault word; the hold in FLUSH is that of every
write. -/
theorem configurationWritesByState : Obligations.ConfigurationWritesByState := by
  intro v s
  have hctrl := isConfigWrite_wrCtrl v
  have hdecim := isConfigWrite_wrDecimN v
  have hbox := isConfigWrite_wrBoxN v
  have hdeemph := isConfigWrite_wrDeemphD v
  have hscale := isConfigWrite_wrScale v
  refine ⟨fun hm => ?_, fun hm => ?_, fun hm => ?_, fun hm => ?_⟩
  · exact ⟨hctrl.exec_unconf hm, hdecim.exec_unconf hm, hbox.exec_unconf hm, hdeemph.exec_unconf hm,
      hscale.exec_unconf hm⟩
  · exact ⟨hctrl.exec_locked hm, hdecim.exec_locked hm, hbox.exec_locked hm, hdeemph.exec_locked hm,
      hscale.exec_locked hm⟩
  · exact ⟨hctrl.exec_fault hm, hdecim.exec_fault hm, hbox.exec_fault hm, hdeemph.exec_fault hm,
      hscale.exec_fault hm⟩
  · exact ⟨exec_write_flush rfl hm, exec_write_flush rfl hm, exec_write_flush rfl hm, exec_write_flush rfl hm,
      exec_write_flush rfl hm⟩

/-! ### The kinds of transactions -/

/-- A write that the bus accepts is a command, a WR CMD, or a configuration write, which keeps STATE where it stores
and is listed in the table of 47_host_interface.md R252 as legal in UNCONF alone. -/
theorem isWrite_cases (hw : isWrite i = true) :
    (∃ c : Command, i = c.instr) ∨ (∃ v, i = .wrCmd v) ∨
      ∃ off store, IsConfigWrite i off store ∧ (∀ s, (store s).mode = s.mode) ∧
        ∀ m, nextModes m i = if m = .unconf then [.unconf] else [.fault] := by
  cases i with
  | nop => exact .inl ⟨.nop, rfl⟩
  | reset => exact .inl ⟨.reset, rfl⟩
  | construct => exact .inl ⟨.construct, rfl⟩
  | blockBegin => exact .inl ⟨.blockBegin, rfl⟩
  | pair ib qb => exact .inl ⟨.pair ib qb, rfl⟩
  | blockEnd => exact .inl ⟨.blockEnd, rfl⟩
  | illegalCmd w => exact .inl ⟨.illegal w, rfl⟩
  | wrCmd v => exact .inr (.inl ⟨v, rfl⟩)
  | wrCtrl v => exact .inr (.inr ⟨_, _, isConfigWrite_wrCtrl v, fun _ => rfl, fun _ => rfl⟩)
  | wrDecimN v => exact .inr (.inr ⟨_, _, isConfigWrite_wrDecimN v, fun _ => rfl, fun _ => rfl⟩)
  | wrBoxN v => exact .inr (.inr ⟨_, _, isConfigWrite_wrBoxN v, fun _ => rfl, fun _ => rfl⟩)
  | wrDeemphD v => exact .inr (.inr ⟨_, _, isConfigWrite_wrDeemphD v, fun _ => rfl, fun _ => rfl⟩)
  | wrScale v => exact .inr (.inr ⟨_, _, isConfigWrite_wrScale v, fun _ => rfl, fun _ => rfl⟩)
  | wrId | wrStatus | wrErrCmd | wrOutCount | wrPairCount | wrPcmCount | wrBlockCount | wrDecimCnt | wrDbgSmoothI
  | wrDbgSmoothQ | wrDbgPhase | wrDbgDecimOut | wrDbgDeemphOut | wrCaps | busError
  | rdId | rdCtrl | rdDecimN | rdBoxN | rdDeemphD | rdScale | rdCmd | rdStatus | rdErrCmd | rdOutCount | rdPairCount
  | rdPcmCount | rdBlockCount | rdDecimCnt | rdDbgSmoothI | rdDbgSmoothQ | rdDbgPhase | rdDbgDecimOut
  | rdDbgDeemphOut | rdCaps => cases hw

/-- A transaction that is no accepted write leads nowhere else by the table (47_host_interface.md R252), and where it is
no read either it is refused (20_memory.md R63, R64). -/
theorem not_isWrite_cases (hw : isWrite i = false) :
    (∀ m, nextModes m i = [m]) ∧ (isRead i = false → ∀ s, ∃ r, exec i s = .refused r) := by
  cases i with
  | nop | reset | construct | blockBegin | pair | blockEnd | illegalCmd | wrCtrl | wrDecimN | wrBoxN | wrDeemphD
  | wrScale | wrCmd => cases hw
  | wrId | wrStatus | wrErrCmd | wrOutCount | wrPairCount | wrPcmCount | wrBlockCount | wrDecimCnt | wrDbgSmoothI
  | wrDbgSmoothQ | wrDbgPhase | wrDbgDecimOut | wrDbgDeemphOut | wrCaps | busError =>
    exact ⟨fun _ => rfl, fun _ _ => ⟨_, rfl⟩⟩
  | rdId | rdCtrl | rdDecimN | rdBoxN | rdDeemphD | rdScale | rdCmd | rdStatus | rdErrCmd | rdOutCount | rdPairCount
  | rdPcmCount | rdBlockCount | rdDecimCnt | rdDbgSmoothI | rdDbgSmoothQ | rdDbgPhase | rdDbgDecimOut
  | rdDbgDeemphOut | rdCaps => exact ⟨fun _ => rfl, fun hr => by cases hr⟩

/-! ### Writes in FAULT -/

/-- In FAULT a write is ignored, the two forms of RESET excepted (47_host_interface.md R250). -/
theorem exec_write_fault (hm : s.mode = .fault) (hw : isWrite i = true) (hreset : i ≠ .reset)
    (hcmd : i ≠ .wrCmd 0x01000000#32) : exec i s = .next s := by
  rcases isWrite_cases hw with ⟨c, rfl⟩ | ⟨v, rfl⟩ | ⟨off, store, h, -⟩
  · exact exec_command_fault c (fun hc => hreset (congrArg Command.instr hc)) hm
  · have hc : decodeCommand v ≠ .reset := fun hd =>
      hcmd (congrArg Instr.wrCmd (((commandWordsDecodeByMatchAndMask v).2.1).mp hd))
    rw [exec_wrCmd_run v (by simp [hm]), commandEffect_fault hc hm]
  · exact h.exec_fault hm

/-- Settles O31: by the kinds of transactions. -/
theorem faultIgnoresEveryWriteButReset : Obligations.FaultIgnoresEveryWriteButReset := fun _ s hm =>
  ⟨exec_write_fault hm, fun hw hr => (not_isWrite_cases hw).2 hr s⟩

/-! ### The table of next STATEs -/

theorem emit_mode_mem (w : Word) (hm : s.mode = .inblock) : (emit w s).mode ∈ [Mode.inblock, .fault] := by
  rcases emit_cases w s with ⟨-, he⟩ | ⟨-, he⟩ <;> simp [he, hm]

/-- A PAIR stays in its block, or overflows the buffer (46_pipeline.md R195). -/
theorem pairStep_mode_mem (np : NormPoint) (ib qb : Byte) (w : Word) (hm : s.mode = .inblock) :
    (pairStep np ib qb w s).mode ∈ [Mode.inblock, .fault] := by
  rcases pairStep_cases np ib qb w s with ⟨-, he⟩ | ⟨-, he⟩ <;> rw [he]
  · simp [hm]
  · exact emit_mode_mem w (by simp [hm])

theorem construct_mode_mem (s : State) : (construct s).mode ∈ [Mode.ready, .fault] := by
  rcases construct_cases s with ⟨-, he⟩ | ⟨-, he⟩ <;> simp [he]

/-- Outside FAULT each row of EXEC_CMD leads where the table says. -/
theorem commandEffect_mode_mem (c : Command) (hf : s.mode ≠ .fault) :
    (commandEffect c s).mode ∈ nextModes s.mode c.instr := by
  cases c with
  | nop | reset => exact List.mem_singleton_self _
  | construct => exact commandIn_mode_mem hf fun _ => construct_mode_mem s
  | blockBegin =>
    exact commandIn_mode_mem (e := fun s => { s with mode := .inblock }) hf fun _ => List.mem_singleton_self _
  | pair ib qb => exact commandIn_mode_mem hf fun hm => pairStep_mode_mem _ ib qb _ hm
  | blockEnd =>
    exact commandIn_mode_mem (e := fun s => { s with mode := .flush }) hf fun _ => List.mem_singleton_self _
  | illegal w =>
    rw [commandEffect_illegal, if_neg hf]
    exact List.mem_singleton_self _

/-- Outside FAULT a configuration write stays in UNCONF, and leads to FAULT from the other states. -/
theorem configWrite_mode_mem (off : Offset) {store : State → State} (hf : s.mode ≠ .fault)
    (hstore : (store s).mode = s.mode) :
    (configWrite off store s).mode ∈ if s.mode = .unconf then [Mode.unconf] else [.fault] := by
  rcases configWrite_cases off store s with ⟨hm, -⟩ | ⟨hm, he⟩ | ⟨hm, he⟩
  · exact absurd hm hf
  · simp [he, hstore, hm]
  · have hu : s.mode ≠ .unconf := by rcases hm with hm | hm | hm <;> simp [hm]
    simp [he, hu]

/-- WR CMD has the row of the command that its word decodes to. -/
theorem nextModes_wrCmd (m : Mode) (v : Word) : nextModes m (.wrCmd v) = nextModes m (decodeCommand v).instr := by
  simp only [nextModes]
  cases decodeCommand v <;> rfl

/-- Of the effects, only those of a write change STATE. -/
theorem Effect.mode_of_not_isWrite (h : Effect i s t) (hw : isWrite i = false) : t.mode = s.mode := by
  cases h with
  | read => rfl
  | same hw' | hold hw' | fault hw' | reset hw' | construct hw' | blockBegin hw' | pair hw' | blockEnd hw'
  | config hw' =>
    cases hw.symm.trans hw'

/-- Outside FAULT and FLUSH a transaction leads where the table says. -/
theorem exec_mode_mem_nextModes (h : exec i s = .next t) (hm : s.mode ≠ .flush) (hf : s.mode ≠ .fault) :
    t.mode ∈ nextModes s.mode i := by
  cases hw : isWrite i with
  | false =>
    rw [(not_isWrite_cases hw).1, (exec_effect h).mode_of_not_isWrite hw]
    exact List.mem_singleton_self _
  | true =>
    rcases isWrite_cases hw with ⟨c, rfl⟩ | ⟨v, rfl⟩ | ⟨off, store, hcfg, hmode, hnext⟩
    · cases (exec_command_run c hm).symm.trans h
      exact commandEffect_mode_mem c hf
    · cases (exec_wrCmd_run v hm).symm.trans h
      rw [nextModes_wrCmd]
      exact commandEffect_mode_mem _ hf
    · cases (hcfg s).symm.trans h
      rw [hnext, issueWrite_run hm]
      exact configWrite_mode_mem off hf (hmode s)

/-- In FAULT a transaction stays there, or is one of the two forms of RESET and leads to UNCONF. -/
theorem exec_mode_of_fault (h : exec i s = .next t) (hm : s.mode = .fault) :
    t.mode = .fault ∨ (t.mode = .unconf ∧ (i = .reset ∨ i = .wrCmd 0x01000000#32)) := by
  have hfl : s.mode ≠ .flush := by simp [hm]
  by_cases hreset : i = .reset
  · subst hreset
    cases (exec_reset_run hfl).symm.trans h
    exact .inr ⟨rfl, .inl rfl⟩
  by_cases hcmd : i = .wrCmd 0x01000000#32
  · subst hcmd
    cases (exec_wrCmd_run _ hfl).symm.trans h
    exact .inr ⟨rfl, .inr rfl⟩
  cases hw : isWrite i with
  | false => exact .inl ((exec_effect h).mode_of_not_isWrite hw ▸ hm)
  | true =>
    cases (exec_write_fault hm hw hreset hcmd).symm.trans h
    exact .inl hm

/-- Settles O32: outside FAULT the table row by row, and in FAULT RESET alone leads out. -/
theorem nextStatesAreThoseOfTheLegalityTable : Obligations.NextStatesAreThoseOfTheLegalityTable :=
  fun _ _ _ hm h => ⟨exec_mode_mem_nextModes h hm, exec_mode_of_fault h⟩

/-! ### How FLUSH is left -/

/-- In FLUSH a write is held and a read returns, and no other effect happens. -/
theorem Effect.mode_of_flush (h : Effect i s t) (hm : s.mode = .flush) : t.mode = .flush := by
  cases h with
  | read | hold => exact hm
  | same _ h | fault _ h | reset _ h => exact absurd hm h
  | construct _ h | blockBegin _ h | pair _ h | blockEnd _ h | config _ h => cases hm.symm.trans h

/-- No step of the Host leaves FLUSH. -/
theorem hostStep_mode_of_flush {x : Bool} (h : hostStep x s = .next t) (hm : s.mode = .flush) : t.mode = .flush := by
  rcases hostStep_next h with ⟨-, -, rfl⟩ | ⟨-, -, rfl⟩ | ⟨i, -, hne, -⟩ | ⟨q, rest, i, -, -, -, he⟩
  · exact hm
  · exact hm
  · exact absurd hm hne
  · exact (exec_effect he).mode_of_flush hm

theorem sinkAccept_mode_of_flush (hm : s.mode = .flush) : (sinkAccept s).mode = .ready := by
  obtain ⟨-, he⟩ := (sinkAccept_cases s).resolve_right fun h => h.1 hm
  rw [he]

/-- Settles O10: the Host stays in FLUSH, the Sink's acceptance leads to READY and HW_RESET to UNCONF. -/
theorem flushIsLeftOnlyBySinkOrReset : Obligations.FlushIsLeftOnlyBySinkOrReset := by
  intro s t h hm ht
  rcases step_cases s with ⟨-, he⟩ | ⟨r, -, he⟩ | ⟨r, hs, he⟩ | ⟨r, hs, he⟩ <;> rw [he] at h
  · exact absurd (hostStep_mode_of_flush h hm) ht
  · exact absurd (hostStep_mode_of_flush (s := { s with schedule := r }) h hm) ht
  · cases h
    exact .inl ⟨r, hs, sinkAccept_mode_of_flush (s := { s with schedule := r }) hm⟩
  · cases h
    exact .inr ⟨r, hs, rfl⟩

end Sys2Proof.Machine
end

section
/-! The families 60_exceptions.md and 70_reset_and_hazards.md: the CONSTRUCT checks, illegal command words, every way
into FAULT with what it records, the transactions that raise PROTOCOL, and the hardware reset. -/

namespace Sys2Proof.Machine

variable {s t : State} {i : Instr} {m : Mode}

/-! ### The CONSTRUCT checks -/

/-- A selector outside ORDERS fails the first check (60_exceptions.md R272). -/
theorem constructCheck_cfgOrder (ho : legalOrder s.ctrl.orderSel ≠ true) : constructCheck s = .cfgOrder := by
  simp [constructCheck, ho]

/-- A ratio of 0 fails the second check (60_exceptions.md R272). -/
theorem constructCheck_cfgDecim (ho : legalOrder s.ctrl.orderSel = true) (hn : s.decimN = 0#16) :
    constructCheck s = .cfgDecim := by
  simp [constructCheck, ho, hn]

/-- A box window of 0 fails the third check (60_exceptions.md R272). -/
theorem constructCheck_cfgBox (ho : legalOrder s.ctrl.orderSel = true) (hn : s.decimN ≠ 0#16)
    (hs : s.ctrl.smooth = .box) (hb : s.boxN = 0#16) : constructCheck s = .cfgBox := by
  simp [constructCheck, ho, hn, hs, hb]

/-- A box window above BOX_MAX fails the fourth check (60_exceptions.md R272). -/
theorem constructCheck_alloc (ho : legalOrder s.ctrl.orderSel = true) (hn : s.decimN ≠ 0#16)
    (hs : s.ctrl.smooth = .box) (hb : Config.boxMax < s.boxN.toNat) : constructCheck s = .alloc := by
  have hb0 : s.boxN ≠ 0#16 := fun h => by simp [h] at hb
  simp [constructCheck, ho, hn, hs, hb, hb0]

/-- PROTOCOL is the code of no CONSTRUCT check (60_exceptions.md R272). -/
theorem constructCheck_ne_protocol (s : State) : constructCheck s ≠ .protocol := by
  unfold constructCheck
  repeat' split
  all_goals decide

/-- CONSTRUCT in UNCONF raises the code of the check that fails (47_host_interface.md R212). -/
theorem exec_construct_check_fails {c : ErrCode} (hm : s.mode = .unconf) (hc : constructCheck s = c) (hne : c ≠ .none) :
    exec .construct s = .next (raiseFault c 0x02000000#32 s) := by
  subst hc
  obtain ⟨-, he⟩ := (construct_cases s).resolve_left fun h => hne h.1
  rw [exec_construct_unconf hm, he]

/-- Settles O24: each hypothesis fails one check and passes those before it. -/
theorem constructChecksFailInOrder : Obligations.ConstructChecksFailInOrder := by
  intro s hm
  simp only [← legalOrder_iff]
  refine ⟨fun ho => ?_, fun ho hn => ?_, fun ho hn hs hb => ?_, fun ho hn hs hb => ?_⟩
  · exact exec_construct_check_fails hm (constructCheck_cfgOrder ho) (by decide)
  · exact exec_construct_check_fails hm (constructCheck_cfgDecim ho hn) (by decide)
  · exact exec_construct_check_fails hm (constructCheck_cfgBox ho hn hs hb) (by decide)
  · exact exec_construct_check_fails hm (constructCheck_alloc ho hn hs hb) (by decide)

/-! ### Illegal command words -/

/-- Outside FAULT and FLUSH an illegal command word raises ILLEGAL_CMD (60_exceptions.md R273). -/
theorem exec_illegalCmd_run (w : Word) (hfl : s.mode ≠ .flush) (hf : s.mode ≠ .fault) :
    exec (.illegalCmd w) s = .next (raiseFault .illegalCmd w s) := by
  have hrun := exec_command_run (.illegal w) hfl
  rwa [commandEffect_illegal, if_neg hf] at hrun

/-- Settles O27: the fault in three states, the rule of every command in FAULT, and that of every write in FLUSH. -/
theorem illegalCommandWordsFault : Obligations.IllegalCommandWordsFault := by
  refine fun w s => ⟨fun hm => ?_, exec_command_fault (.illegal w) (by simp), exec_write_flush rfl⟩
  exact exec_illegalCmd_run w (by rintro h; simp [h] at hm) (by rintro h; simp [h] at hm)

/-! ### The transactions that raise PROTOCOL -/

/-- `i` is legal in `m` and a PROTOCOL fault in every other state but FAULT and FLUSH (60_exceptions.md R274). -/
inductive LegalOnlyIn : Instr → Mode → Prop where
  | construct : LegalOnlyIn .construct .unconf
  | blockBegin : LegalOnlyIn .blockBegin .ready
  | pair (ib qb : Byte) : LegalOnlyIn (.pair ib qb) .inblock
  | blockEnd : LegalOnlyIn .blockEnd .inblock
  | wrCtrl (v : Word) : LegalOnlyIn (.wrCtrl v) .unconf
  | wrDecimN (v : Word) : LegalOnlyIn (.wrDecimN v) .unconf
  | wrBoxN (v : Word) : LegalOnlyIn (.wrBoxN v) .unconf
  | wrDeemphD (v : Word) : LegalOnlyIn (.wrDeemphD v) .unconf
  | wrScale (v : Word) : LegalOnlyIn (.wrScale v) .unconf

/-- Outside FAULT, FLUSH and the one state in which a transaction is legal, two states are left. -/
theorem eq_or_eq_iff_of_ne_fault (hf : m ≠ .fault) :
    (m ≠ .unconf ∧ m ≠ .flush ↔ m = .ready ∨ m = .inblock) ∧ (m ≠ .ready ∧ m ≠ .flush ↔ m = .unconf ∨ m = .inblock) ∧
      (m ≠ .inblock ∧ m ≠ .flush ↔ m = .unconf ∨ m = .ready) := by
  cases m <;> simp at hf ⊢

/-- Where it is not legal the transaction raises PROTOCOL with its own word (60_exceptions.md R274, R276). -/
theorem LegalOnlyIn.exec_protocol (h : LegalOnlyIn i m) (hm : s.mode ≠ m) (hf : s.mode ≠ .fault)
    (hfl : s.mode ≠ .flush) : exec i s = .next (raiseFault .protocol (faultWord i) s) := by
  have hlocked : s.mode ≠ .unconf → s.mode = .ready ∨ s.mode = .inblock := fun hu =>
    (eq_or_eq_iff_of_ne_fault hf).1.mp ⟨hu, hfl⟩
  cases h with
  | construct => exact exec_command_protocol .construct commandEffect_construct hfl hf hm
  | blockBegin => exact exec_command_protocol .blockBegin commandEffect_blockBegin hfl hf hm
  | pair ib qb => exact exec_command_protocol (.pair ib qb) (commandEffect_pair ib qb) hfl hf hm
  | blockEnd => exact exec_command_protocol .blockEnd commandEffect_blockEnd hfl hf hm
  | wrCtrl v => exact (isConfigWrite_wrCtrl v).exec_locked (hlocked hm)
  | wrDecimN v => exact (isConfigWrite_wrDecimN v).exec_locked (hlocked hm)
  | wrBoxN v => exact (isConfigWrite_wrBoxN v).exec_locked (hlocked hm)
  | wrDeemphD v => exact (isConfigWrite_wrDeemphD v).exec_locked (hlocked hm)
  | wrScale v => exact (isConfigWrite_wrScale v).exec_locked (hlocked hm)

/-! ### Fault entry -/

/-- The states of FAULT that `i` can enter from `s`, with what it records there (60_exceptions.md R272 to R276). -/
inductive FaultEntry (i : Instr) (s : State) : State → Prop where
  /-- The transaction is not legal in this STATE. -/
  | protocol {m : Mode} (hl : LegalOnlyIn i m) (hm : s.mode ≠ m) (hfl : s.mode ≠ .flush) :
      FaultEntry i s (raiseFault .protocol (faultWord i) s)
  /-- A CONSTRUCT check fails. -/
  | check (hi : i = .construct) (hm : s.mode = .unconf) (hc : constructCheck s ≠ .none) :
      FaultEntry i s (raiseFault (constructCheck s) (faultWord i) s)
  /-- The command word is illegal. -/
  | illegal {w : Word} (hi : i = .illegalCmd w) (hfl : s.mode ≠ .flush) :
      FaultEntry i s (raiseFault .illegalCmd (faultWord i) s)
  /-- A PAIR finds the buffer full; its units and PAIR_COUNT are updated already (46_pipeline.md R195). -/
  | overflow {ib qb : Byte} (hi : i = .pair ib qb) (hm : s.mode = .inblock)
      (hr : (pairFront Config.normPoint ib qb s).dec.ready = true) (hl : s.buf.length = 8192) :
      FaultEntry i s (raiseFault .outOverflow (faultWord i)
        { pairFront Config.normPoint ib qb s with
          de := deemphIn s.de (pairFront Config.normPoint ib qb s).dec.out })

/-- A PAIR enters FAULT only on a ready cycle and a full buffer (46_pipeline.md R195). -/
theorem ready_and_full_of_pairStep_fault {np : NormPoint} {ib qb : Byte} {w : Word} (hf : s.mode ≠ .fault)
    (ht : (pairStep np ib qb w s).mode = .fault) :
    (pairFront np ib qb s).dec.ready = true ∧ s.buf.length = 8192 := by
  cases hr : (pairFront np ib qb s).dec.ready with
  | false =>
    rw [pairStep_of_not_ready hr, pairFront_mode] at ht
    exact absurd ht hf
  | true =>
    refine ⟨rfl, by_contra fun hl => hf ?_⟩
    rw [pairStep_of_room hr hl] at ht
    exact (pairFront_mode ..).symm.trans ht

/-- Every way into FAULT: by the table of 47_host_interface.md R252, which names the transactions that lead there. -/
theorem exec_faultEntry (h : exec i s = .next t) (hcmd : ∀ v, i ≠ .wrCmd v) (hf : s.mode ≠ .fault)
    (ht : t.mode = .fault) : FaultEntry i s t := by
  have hfl : s.mode ≠ .flush := fun hm => by simp [(exec_effect h).mode_of_flush hm] at ht
  have hnext := exec_mode_mem_nextModes h hfl hf
  rw [ht] at hnext
  have hstay : Mode.fault ∉ [s.mode] := by simpa using hf.symm
  by_cases hill : ∃ m, LegalOnlyIn i m ∧ s.mode ≠ m
  · obtain ⟨m, hl, hm⟩ := hill
    cases (hl.exec_protocol hm hf hfl).symm.trans h
    exact .protocol hl hm hfl
  have hlegal {m : Mode} (hl : LegalOnlyIn i m) : s.mode = m := by_contra fun hm => hill ⟨m, hl, hm⟩
  cases i with
  | wrCmd v => exact absurd rfl (hcmd v)
  | construct =>
    have hm := hlegal .construct
    cases (exec_construct_unconf hm).symm.trans h
    rcases construct_cases s with ⟨-, he⟩ | ⟨hc, he⟩ <;> rw [he] at ht ⊢
    · cases ht
    · exact .check rfl hm hc
  | pair ib qb =>
    have hm := hlegal (.pair ib qb)
    cases (exec_pair_inblock hm ib qb).symm.trans h
    obtain ⟨hr, hl⟩ := ready_and_full_of_pairStep_fault hf ht
    rw [pairStep_of_full hr hl]
    exact .overflow rfl hm hr hl
  | illegalCmd w =>
    cases (exec_illegalCmd_run w hfl hf).symm.trans h
    exact .illegal rfl hfl
  | blockBegin => simp [nextModes, hlegal .blockBegin] at hnext
  | blockEnd => simp [nextModes, hlegal .blockEnd] at hnext
  | wrCtrl v => simp [nextModes, hlegal (.wrCtrl v)] at hnext
  | wrDecimN v => simp [nextModes, hlegal (.wrDecimN v)] at hnext
  | wrBoxN v => simp [nextModes, hlegal (.wrBoxN v)] at hnext
  | wrDeemphD v => simp [nextModes, hlegal (.wrDeemphD v)] at hnext
  | wrScale v => simp [nextModes, hlegal (.wrScale v)] at hnext
  | reset => simp [nextModes] at hnext
  | nop | wrId | wrStatus | wrErrCmd | wrOutCount | wrPairCount | wrPcmCount | wrBlockCount | wrDecimCnt | wrDbgSmoothI
  | wrDbgSmoothQ | wrDbgPhase | wrDbgDecimOut | wrDbgDeemphOut | wrCaps | busError
  | rdId | rdCtrl | rdDecimN | rdBoxN | rdDeemphD | rdScale | rdCmd | rdStatus | rdErrCmd | rdOutCount | rdPairCount
  | rdPcmCount | rdBlockCount | rdDecimCnt | rdDbgSmoothI | rdDbgSmoothQ | rdDbgPhase | rdDbgDecimOut
  | rdDbgDeemphOut | rdCaps => exact absurd hnext hstay

/-- Settles O30: every way into FAULT but the overflow is fault entry on the state as it was. -/
theorem faultEntryChangesOnlyTheFaultRecord : Obligations.FaultEntryChangesOnlyTheFaultRecord := by
  intro i s t hcmd hf h ht
  cases exec_faultEntry h hcmd hf ht with
  | protocol => exact ⟨by simp, rfl, fun _ => rfl, fun _ => rfl⟩
  | check _ _ hc => exact ⟨hc, rfl, fun _ => rfl, fun _ => rfl⟩
  | illegal => exact ⟨by simp, rfl, fun _ => rfl, fun _ => rfl⟩
  | overflow hi => exact ⟨by simp, rfl, fun hpair => absurd hi (hpair _ _), fun herr => absurd rfl herr⟩

/-- PROTOCOL is the code of one way into FAULT alone. -/
theorem exec_raises_protocol_iff (h : exec i s = .next t) (hcmd : ∀ v, i ≠ .wrCmd v) (hf : s.mode ≠ .fault) :
    (t.mode = .fault ∧ t.err = .protocol) ↔ ∃ m, LegalOnlyIn i m ∧ s.mode ≠ m ∧ s.mode ≠ .flush := by
  constructor
  · rintro ⟨ht, herr⟩
    cases exec_faultEntry h hcmd hf ht with
    | protocol hl hm hfl => exact ⟨_, hl, hm, hfl⟩
    | check => exact absurd herr (constructCheck_ne_protocol s)
    | illegal | overflow => cases herr
  · rintro ⟨m, hl, hm, hfl⟩
    cases (hl.exec_protocol hm hf hfl).symm.trans h
    exact ⟨rfl, rfl⟩

/-- Settles O29: the list names each transaction that is legal in one state alone, with the two states in which it is
not. -/
theorem protocolIsRaisedByExactlyTheseTransactions : Obligations.ProtocolIsRaisedByExactlyTheseTransactions := by
  intro i s t hcmd hf h
  obtain ⟨hunconf, hready, hinblock⟩ := eq_or_eq_iff_of_ne_fault hf
  rw [exec_raises_protocol_iff h hcmd hf, ← hunconf, ← hready, ← hinblock]
  constructor
  · rintro ⟨m, hl, hm⟩
    cases hl with
    | construct => exact .inl ⟨rfl, hm⟩
    | blockBegin => exact .inr (.inl ⟨rfl, hm⟩)
    | pair ib qb => exact .inr (.inr (.inl ⟨⟨ib, qb, rfl⟩, hm⟩))
    | blockEnd => exact .inr (.inr (.inr (.inl ⟨rfl, hm⟩)))
    | wrCtrl v | wrDecimN v | wrBoxN v | wrDeemphD v | wrScale v =>
      exact .inr (.inr (.inr (.inr ⟨⟨v, by simp⟩, hm⟩)))
  · rintro (⟨rfl, hm⟩ | ⟨rfl, hm⟩ | ⟨⟨ib, qb, rfl⟩, hm⟩ | ⟨rfl, hm⟩ | ⟨⟨v, rfl | rfl | rfl | rfl | rfl⟩, hm⟩)
    · exact ⟨_, .construct, hm⟩
    · exact ⟨_, .blockBegin, hm⟩
    · exact ⟨_, .pair ib qb, hm⟩
    · exact ⟨_, .blockEnd, hm⟩
    · exact ⟨_, .wrCtrl v, hm⟩
    · exact ⟨_, .wrDecimN v, hm⟩
    · exact ⟨_, .wrBoxN v, hm⟩
    · exact ⟨_, .wrDeemphD v, hm⟩
    · exact ⟨_, .wrScale v, hm⟩

/-! ### The hardware reset -/

theorem step_of_hwReset {r : List Agent} (h : s.schedule = .hwReset :: r) :
    step s = .next (hwReset { s with schedule := r }) := by
  simp [step, agentStep, h]

/-- Settles O9: HW_RESET is RESET_ACTION with the held write dropped, whose values are those after reset. -/
theorem hardwareResetRestoresResetValues : Obligations.HardwareResetRestoresResetValues := fun _ _ hs =>
  step_of_hwReset hs

end Sys2Proof.Machine
end
